-- ==== Sys2Proof/Word.lean ====
section
/-! DEFINITION. The plainest arithmetic the types of the model need: how many bits a register has. -/

namespace Sys2Proof

/-- `width(m)` of rule R7: the number of bits needed to write `m` in binary, and at least 1
(the floor of 1 is the spec's decision D9). -/
def width (m : Nat) : Nat :=
  if m = 0 then 1 else Nat.log2 m + 1

end Sys2Proof
end

