-- ==== Sys2Proof/Config.lean ====
section
/-! DEFINITION. What is fixed when a core is built (its parameters), what the environment presents in
one cycle (its inputs), and the one free value of the model: the inputs nothing has given. -/

namespace Sys2Proof

/-- The three configuration parameters (rule R5), "immutable config". A configuration that breaks a
bound is rejected when the core is built, not at run time (rule R6): no value of this type breaks one. -/
structure Params where
  /-- `channel_count`: segments of the data input, words of a normal transfer. -/
  C : Nat
  /-- `segment_width`: bits of every word. -/
  W : Nat
  /-- `clock_divisor`: system-clock cycles per serial half-period. -/
  N : Nat
  C_pos : 1 ≤ C
  W_pos : 1 ≤ W
  N_pos : 1 ≤ N
  deriving DecidableEq, Repr

/-- `L = C * W`, the length in bits of the shift register and of `data` (rule R7). -/
abbrev Params.L (p : Params) : Nat := p.C * p.W

/-- The bits of `div_cnt` (rule R7). -/
abbrev Params.divWidth (p : Params) : Nat := width (p.N - 1)

/-- The bits of `bit_cnt` (rule R7). -/
abbrev Params.bitWidth (p : Params) : Nat := width (p.W - 1)

/-- The bits of `word_cnt` (rule R7). -/
abbrev Params.wordWidth (p : Params) : Nat := width p.C

/-- The inputs of one cycle (rule R19). `clk` is the step itself: no rule reads its level. -/
structure Inputs (p : Params) where
  /-- External reset of all state. -/
  rst : Bool
  /-- Request of a normal transfer. -/
  start : Bool
  /-- Request of the initialization transfer. -/
  init : Bool
  /-- The device handshake, as a level; 1 is the source's "asserted". -/
  busy : Bool
  /-- The wide parallel data, `C` segments of `W` bits. -/
  data : BitVec p.L
  deriving DecidableEq, Repr, Inhabited

/-- The only concrete parameters any source gives (R5; scenario S6 of spec/95_test_vectors.md).
DESIGN CHOICE, unsafe (log entry 4): the spec fixes no value; `State.reset` has to name one. -/
def Params.scenario : Params :=
  { C := 4, W := 24, N := 4, C_pos := by decide, W_pos := by decide, N_pos := by decide }

/-- The inputs of an environment that asks for nothing: no reset, no request (rule R164, item 4),
`busy` at its default level 1 (rule R19).
DESIGN CHOICE, unsafe (log entry 5): the spec gives no value of `data` here; this one is 0. -/
def Inputs.quiet (p : Params) : Inputs p :=
  { rst := false, start := false, init := false, busy := true, data := 0 }

/-- FREE VALUE (log entry 3, safe): the inputs the environment presents in cycle `t` when nothing has
given them. Rule R9: "its inputs are free per cycle". It has no body that a proof could see. -/
opaque Config.envInputs (p : Params) (t : Nat) : Inputs p

end Sys2Proof
end

