-- ==== Sys2Proof/Syntax.lean ====
section
/-! DEFINITION. The twenty operations that take the place of instructions, and the selector words that
choose them. No operation has an operand (rule R56). -/

namespace Sys2Proof

/-- The operations of rule R53, one constructor per row of spec/opcode_table.json. -/
inductive Instr where
  /-- FSM_HOLD, rule R94: no tick, the tick-gated registers keep their values. -/
  | fsmHold
  /-- IDLE_WAIT, rule R81: a tick in IDLE without a request. -/
  | idleWait
  /-- START_NORMAL, rule R82: a normal transfer starts. -/
  | startNormal
  /-- START_INIT, rule R83: an init transfer starts. -/
  | startInit
  /-- SETUP_NEXT, rule R84: the serial clock falls on a bit that is not the last. -/
  | setupNext
  /-- SETUP_LAST, rule R85: the serial clock falls on the last bit of a word. -/
  | setupLast
  /-- HOLD_SHIFT, rule R86: the next bit comes onto the line. -/
  | holdShift
  /-- DELAY_END, rule R87: the frame of a word closes. -/
  | delayEnd
  /-- BUSYLOW_WAIT, rule R88: waiting for level 0 of `busy`. -/
  | busylowWait
  /-- BUSYLOW_ACK, rule R89: level 0 of `busy` was seen. -/
  | busylowAck
  /-- BUSYHIGH_WAIT, rule R90: waiting for level 1 of `busy`. -/
  | busyhighWait
  /-- BUSYHIGH_NEXT, rule R91: the next word of the transfer begins. -/
  | busyhighNext
  /-- BUSYHIGH_DONE, rule R92: the transfer ends, no init request pending. -/
  | busyhighDone
  /-- BUSYHIGH_DONE_INIT, rule R93: the transfer ends with an init request pending. -/
  | busyhighDoneInit
  /-- DIV_COUNT, rule R74: the divider counts down. -/
  | divCount
  /-- DIV_RELOAD, rule R75: the divider reloads. -/
  | divReload
  /-- DIV_FREEZE, rule R76: the divider stays at 0. -/
  | divFreeze
  /-- LATCH_KEEP, rule R121: the init latch keeps its value. -/
  | latchKeep
  /-- LATCH_SET, rule R120: the init latch is set. -/
  | latchSet
  /-- RESET, rule R160: every register takes its reset value. -/
  | reset
  deriving DecidableEq, Repr

/-- A selector word with its format (rules R51, R52). -/
inductive SelWord where
  /-- Format T: `tick | st | start | ip | busy | bz | wz`, bit 8 down to bit 0. -/
  | T (w : BitVec 9)
  /-- Format D: `tick | div_load`. -/
  | D (w : BitVec 2)
  /-- Format L: `init`. -/
  | L (w : BitVec 1)
  /-- Format R: `rst`. -/
  | R (w : BitVec 1)
  deriving DecidableEq, Repr

/-- The mnemonic of an operation as spec/opcode_table.json writes it (rule R61). -/
def Instr.mnemonic : Instr → String
  | .fsmHold => "FSM_HOLD"
  | .idleWait => "IDLE_WAIT"
  | .startNormal => "START_NORMAL"
  | .startInit => "START_INIT"
  | .setupNext => "SETUP_NEXT"
  | .setupLast => "SETUP_LAST"
  | .holdShift => "HOLD_SHIFT"
  | .delayEnd => "DELAY_END"
  | .busylowWait => "BUSYLOW_WAIT"
  | .busylowAck => "BUSYLOW_ACK"
  | .busyhighWait => "BUSYHIGH_WAIT"
  | .busyhighNext => "BUSYHIGH_NEXT"
  | .busyhighDone => "BUSYHIGH_DONE"
  | .busyhighDoneInit => "BUSYHIGH_DONE_INIT"
  | .divCount => "DIV_COUNT"
  | .divReload => "DIV_RELOAD"
  | .divFreeze => "DIV_FREEZE"
  | .latchKeep => "LATCH_KEEP"
  | .latchSet => "LATCH_SET"
  | .reset => "RESET"

end Sys2Proof
end

