-- ==== Sys2Proof/WellFormed.lean ====
section
/-! DEFINITION. The checks of the spec on what is given from outside: the parameters of a core, and a
selector word. Operations have no operand (rule R56), so every `Instr` is well formed. -/

namespace Sys2Proof

/-- The bounds of rule R5: `C`, `W` and `N` are each at least 1 (the bound of `W` is decision D8). -/
def legalParams (C W N : Nat) : Bool :=
  decide (1 ≤ C) && decide (1 ≤ W) && decide (1 ≤ N)

/-- Building a core (rule R6): a configuration that breaks a bound is refused, and no core exists. -/
def Params.build? (C W N : Nat) : Option Params :=
  if hC : 1 ≤ C then
    if hW : 1 ≤ W then
      if hN : 1 ≤ N then some { C, W, N, C_pos := hC, W_pos := hW, N_pos := hN } else none
    else none
  else none

/-- The selector words that select an operation (rules R55, R57): a format T word with a tick holds one
of the six state codes, and a format R word has `rst = 1`. -/
def SelWord.wellFormed : SelWord → Bool
  | .T w => !w.getLsbD 8 || decide ((w.extractLsb' 5 3).toNat ≤ 5)
  | .D _ => true
  | .L _ => true
  | .R w => w.getLsbD 0

end Sys2Proof
end

