-- ==== Sys2Proof/Decode.lean ====
section
/-! DEFINITION. The decoder of the selector words (rules R51 to R57), total and refusing by name, and
after it the encoder: the words of each operation written from the table of rule R53. -/

namespace Sys2Proof

/-- Why a selector word selects no operation. -/
inductive DecodeError where
  /-- A tick with a state code that names no state (codes 6 and 7, rule R57, decision D15). Raised by
  `decodeT`. Safe: the core has no such state. -/
  | stateCode (code : BitVec 3)
  /-- A format R word with `rst = 0`: format R has the one pattern `1` (rule R53). Raised by
  `decodeR`. Safe: such a cycle is decoded by the other three formats (rule R54). -/
  | noReset
  deriving DecidableEq, Repr

/-- The tick-gated operation a format T word selects: the table of rule R53 by `tick`, then by state
code (R50), then by the bits the state looks at. Bits a row does not look at are ignored (R57). -/
def decodeT (w : BitVec 9) : Except DecodeError Instr :=
  let code := w.extractLsb' 5 3
  let start := w.getLsbD 4
  let ip := w.getLsbD 3
  let busy := w.getLsbD 2
  let bz := w.getLsbD 1
  let wz := w.getLsbD 0
  if w.getLsbD 8 then
    match code.toNat with
    | 0 => .ok (if ip then .startInit else if start then .startNormal else .idleWait)
    | 1 => .ok (if bz then .setupLast else .setupNext)
    | 2 => .ok .holdShift
    | 3 => .ok .delayEnd
    | 4 => .ok (if busy then .busylowWait else .busylowAck)
    | 5 => .ok (if busy then
                  if wz then if ip then .busyhighDoneInit else .busyhighDone
                  else .busyhighNext
                else .busyhighWait)
    | _ => .error (.stateCode code)
  else .ok .fsmHold

/-- The divider operation a format D word selects (rule R53; bit 1 is `tick`, bit 0 `div_load`). -/
def decodeD (w : BitVec 2) : Instr :=
  if w.getLsbD 1 then if w.getLsbD 0 then .divReload else .divFreeze else .divCount

/-- The latch operation a format L word selects (rule R53; the bit is `init`). -/
def decodeL (w : BitVec 1) : Instr :=
  if w.getLsbD 0 then .latchSet else .latchKeep

/-- The operation a format R word selects (rule R53; the bit is `rst`). -/
def decodeR (w : BitVec 1) : Except DecodeError Instr :=
  if w.getLsbD 0 then .ok .reset else .error .noReset

/-- The operation a selector word selects. -/
def decode : SelWord → Except DecodeError Instr
  | .T w => decodeT w
  | .D w => .ok (decodeD w)
  | .L w => .ok (decodeL w)
  | .R w => decodeR w

/-- The word of an operation, bits it does not look at being 0: the `match` column of rule R53. -/
def encode : Instr → SelWord
  | .fsmHold => .T 0x000#9
  | .idleWait => .T 0x100#9
  | .startNormal => .T 0x110#9
  | .startInit => .T 0x108#9
  | .setupNext => .T 0x120#9
  | .setupLast => .T 0x122#9
  | .holdShift => .T 0x140#9
  | .delayEnd => .T 0x160#9
  | .busylowWait => .T 0x184#9
  | .busylowAck => .T 0x180#9
  | .busyhighWait => .T 0x1A0#9
  | .busyhighNext => .T 0x1A4#9
  | .busyhighDone => .T 0x1A5#9
  | .busyhighDoneInit => .T 0x1AD#9
  | .divCount => .D 0x0#2
  | .divReload => .D 0x3#2
  | .divFreeze => .D 0x2#2
  | .latchKeep => .L 0x0#1
  | .latchSet => .L 0x1#1
  | .reset => .R 0x1#1

/-- The bits an operation looks at, in a word of its format: the `mask` column of rule R53. -/
def encodeMask : Instr → SelWord
  | .fsmHold => .T 0x100#9
  | .idleWait => .T 0x1F8#9
  | .startNormal => .T 0x1F8#9
  | .startInit => .T 0x1E8#9
  | .setupNext => .T 0x1E2#9
  | .setupLast => .T 0x1E2#9
  | .holdShift => .T 0x1E0#9
  | .delayEnd => .T 0x1E0#9
  | .busylowWait => .T 0x1E4#9
  | .busylowAck => .T 0x1E4#9
  | .busyhighWait => .T 0x1E4#9
  | .busyhighNext => .T 0x1E5#9
  | .busyhighDone => .T 0x1ED#9
  | .busyhighDoneInit => .T 0x1ED#9
  | .divCount => .D 0x2#2
  | .divReload => .D 0x3#2
  | .divFreeze => .D 0x3#2
  | .latchKeep => .L 0x1#1
  | .latchSet => .L 0x1#1
  | .reset => .R 0x1#1

/-- `(word & mask) == match`, in words of one format; false across formats (rule R53). -/
def SelWord.fits : (word mask pattern : SelWord) → Bool
  | .T w, .T m, .T v => w &&& m == v
  | .D w, .D m, .D v => w &&& m == v
  | .L w, .L m, .L v => w &&& m == v
  | .R w, .R m, .R v => w &&& m == v
  | _, _, _ => false

/-- The selector word that a bare table word of `nbits` bits stands for.
DESIGN CHOICE (log entry 6, unsafe): a bare word of the table does not say its format, and in whole
bytes the formats D, L and R have the same length. More than 8 bits: format T. One bit: format L. Two
to eight bits: format D, but the whole byte 1, which no row of format D has as its `match`, is the
format R word of RESET. A word with a bit above its format's width is refused. -/
def tableSelWord (nbits w : Nat) : Option SelWord :=
  if 9 ≤ nbits then
    if w < 512 then some (.T (BitVec.ofNat 9 w)) else none
  else if nbits = 1 then
    if w < 2 then some (.L (BitVec.ofNat 1 w)) else none
  else if nbits = 8 ∧ w = 1 then some (.R 1#1)
  else if w < 4 then some (.D (BitVec.ofNat 2 w)) else none

/-- The operation the decoder reads from a bare table word (log entry 6 for the format of a word). -/
def decodeTableWord (nbits w : Nat) : Option Instr :=
  match tableSelWord nbits w with
  | none => none
  | some sw =>
    match decode sw with
    | .ok i => some i
    | .error _ => none

end Sys2Proof
end

