-- ==== Sys2Proof/Machine/State.lean ====
section
/-! DEFINITION. The state of the machine as plain data: the seven registers of the core, and beside them
the arguments of the step that the host's form makes the state carry. -/

namespace Sys2Proof.Machine

/-- The six values of the state register (rule R11). -/
inductive FsmState where
  /-- Polled: waiting for a request. -/
  | idle
  /-- Timed: chip-select asserted, serial clock high. -/
  | setup
  /-- Timed: chip-select asserted, serial clock low, more bits to come. -/
  | hold
  /-- Timed: chip-select asserted after the last bit of a word. -/
  | delay
  /-- Polled: waiting for level 0 of `busy`. -/
  | busyLow
  /-- Polled: waiting for level 1 of `busy`. -/
  | busyHigh
  deriving DecidableEq, Repr

/-- The seven registers of the core, and no other (rule R10), with the widths of rule R7. -/
structure Regs (p : Params) where
  /-- The state register of the Transfer State Machine (rule R11). -/
  st : FsmState
  /-- The down-counter of the Clock Divider (rule R12). -/
  divCnt : BitVec p.divWidth
  /-- The shift register (rule R13). -/
  sr : BitVec p.L
  /-- The remaining bits of the current word (rule R14). -/
  bitCnt : BitVec p.bitWidth
  /-- The remaining words of the current transfer (rule R15). -/
  wordCnt : BitVec p.wordWidth
  /-- The sticky init latch (rule R16). -/
  initLatched : Bool
  /-- The sticky done flag, also an output (rule R17). -/
  initialized : Bool
  deriving DecidableEq, Repr

/-- The registers after reset (rule R22; `st`, `sr` and `init_latched` by the spec's decision D10,
log entry 9). -/
def Regs.reset (p : Params) : Regs p :=
  { st := .idle, divCnt := 0, sr := 0, bitCnt := 0, wordCnt := 0, initLatched := false,
    initialized := false }

/-- What the host's `step` reads: the registers `S(t)`, the inputs `I(t)` and the parameters (rule R39
gives the step these arguments; log entry 1), and the model's own two fields for the inputs of later
cycles (log entry 3). -/
structure State where
  /-- `C`, `W`, `N`: fixed for a run (rule R5); no operation writes them. -/
  params : Params
  /-- `S(t)`: the seven registers (rule R10). -/
  regs : Regs params
  /-- `I(t)`: the inputs of this cycle (rule R19). -/
  inputs : Inputs params
  /-- The inputs of the next cycles that are already given, the nearest first (a stimulus, R59). -/
  upcoming : List (Inputs params)
  /-- The number `t` of this cycle (rule R9); it names the free inputs of a cycle nothing gives. -/
  cycle : Nat
  deriving DecidableEq, Repr

/-- The core raises no exception of any kind (rule R140), so there is no fault. -/
inductive Fault where
  deriving DecidableEq, Repr

/-- Why a step gives no next state. -/
inductive Refusal where
  /-- The operation has no meaning in the model. Raised by no arm of `exec`: every row of the table
  has its meaning. Safe. -/
  | notModelled (mnemonic : String)
  /-- The selector word of the cycle selects no operation (rule R57). Raised by `step`, for no value of
  `State`: the six states have the codes 0 to 5. Safe. -/
  | noOperation (why : DecodeError)
  deriving DecidableEq, Repr

/-- The machine in cycle 0, right after reset: the registers of rule R22. The parameters (log entry 4)
and the inputs of cycle 0 (log entry 5) are DESIGN CHOICES; nothing is given of later cycles. -/
def State.reset : State :=
  { params := .scenario, regs := .reset .scenario, inputs := .quiet .scenario, upcoming := [],
    cycle := 0 }

end Sys2Proof.Machine
end

