-- ==== Sys2Proof/Machine/Operands.lean ====
section
/-! DEFINITION. The values operations use (rule R56): the constants of the parameters, the segments and
load images of the data input, and the one-bit shift. -/

namespace Sys2Proof.Machine

variable {p : Params}

/-- `W - 1`, what `bit_cnt` holds when a word begins (rules R14, R56). -/
def lastBit (p : Params) : BitVec p.bitWidth := BitVec.ofNat _ (p.W - 1)

/-- `C`, what `word_cnt` holds when no init request is pending (rules R81, R82). -/
def allWords (p : Params) : BitVec p.wordWidth := BitVec.ofNat _ p.C

/-- `1`, what `word_cnt` holds when an init transfer starts (rule R83). -/
def oneWord (p : Params) : BitVec p.wordWidth := BitVec.ofNat _ 1

/-- `N - 1`, the reload value of the divider (rule R75). -/
def divReloadValue (p : Params) : BitVec p.divWidth := BitVec.ofNat _ (p.N - 1)

/-- `Seg(k)`: segment `k` of an `L`-bit value, bits `k*W + W - 1` down to `k*W` (rule R31). -/
def seg (k : Nat) (v : BitVec p.L) : BitVec p.W := v.extractLsb' (k * p.W) p.W

/-- `LoadNormal(data)`: the full input verbatim (rule R101). -/
def loadNormal (data : BitVec p.L) : BitVec p.L := data

/-- `LoadInit(data)`: segment 0 in the most significant slot, zeros elsewhere (rule R102). -/
def loadInit (data : BitVec p.L) : BitVec p.L := (seg 0 data).setWidth p.L <<< ((p.C - 1) * p.W)

/-- `shl1(v)`: one place to the left, a 0 entering at the right, the top bit dropped (rule R100). -/
def shl1 (v : BitVec p.L) : BitVec p.L := v <<< 1

end Sys2Proof.Machine
end

