-- ==== Sys2Proof/Machine/Ops.lean ====
section
/-! DEFINITION. The named updates of the registers that the operations are made of: each writes one
register and computes the new value from that register alone, a constant, or a value it is given. The
core has no memory and takes no exception (rules R30, R140), so there is no operation for either. -/

namespace Sys2Proof.Machine

variable {p : Params}

/-- `st <- t` (rule R11). -/
def Regs.goTo (r : Regs p) (t : FsmState) : Regs p := { r with st := t }

/-- `div_cnt <- v` (rule R12). -/
def Regs.setDiv (r : Regs p) (v : BitVec p.divWidth) : Regs p := { r with divCnt := v }

/-- `div_cnt <- div_cnt - 1`, modulo its width (rules R74, R104). -/
def Regs.countDiv (r : Regs p) : Regs p := { r with divCnt := r.divCnt - 1 }

/-- `sr <- v`, the bulk load (rule R13). -/
def Regs.loadSr (r : Regs p) (v : BitVec p.L) : Regs p := { r with sr := v }

/-- `sr <- shl1(sr)` (rules R13, R100). -/
def Regs.shiftSr (r : Regs p) : Regs p := { r with sr := shl1 r.sr }

/-- `bit_cnt <- W - 1`: a new word begins (rule R14). -/
def Regs.reloadBits (r : Regs p) : Regs p := { r with bitCnt := lastBit p }

/-- `bit_cnt <- bit_cnt - 1`, modulo its width (rules R86, R104; the wrap is decision D9, log entry 12). -/
def Regs.countBit (r : Regs p) : Regs p := { r with bitCnt := r.bitCnt - 1 }

/-- `word_cnt <- v` (rule R15). -/
def Regs.setWords (r : Regs p) (v : BitVec p.wordWidth) : Regs p := { r with wordCnt := v }

/-- `word_cnt <- word_cnt - 1`, modulo its width (rules R87, R104; log entry 12). -/
def Regs.countWord (r : Regs p) : Regs p := { r with wordCnt := r.wordCnt - 1 }

/-- `init_latched <- 1` (rule R120). -/
def Regs.latchInit (r : Regs p) : Regs p := { r with initLatched := true }

/-- `initialized <- 1` (rule R93). -/
def Regs.markInitialized (r : Regs p) : Regs p := { r with initialized := true }

/-- The state with its registers updated; parameters and inputs stay (rules R5, R18). -/
def State.updRegs (s : State) (f : Regs s.params → Regs s.params) : State :=
  { s with regs := f s.regs }

/-- The end of a cycle for the environment: the next given inputs become the inputs of the next cycle
`t + 1`, and where none are given they are the free value (rules R9, R18; log entry 3). -/
def State.clockEdge (s : State) : State :=
  match s.upcoming with
  | [] => { s with inputs := Config.envInputs s.params (s.cycle + 1), cycle := s.cycle + 1 }
  | i :: rest => { s with inputs := i, upcoming := rest, cycle := s.cycle + 1 }

end Sys2Proof.Machine
end

