-- ==== Sys2Proof/Machine/Divider.lean ====
section
/-! DEFINITION. The three operations of the clock divider (spec/40_clock_divider.md, section 3). They
write `div_cnt` and nothing else. -/

namespace Sys2Proof.Machine

/-- DIV_COUNT, rule R74: `div_cnt <- div_cnt - 1`. -/
def execDivCount (s : State) : Host.Outcome State Fault Refusal :=
  .next (s.updRegs fun r => r.countDiv)

/-- DIV_RELOAD, rule R75: `div_cnt <- N - 1`. -/
def execDivReload (s : State) : Host.Outcome State Fault Refusal :=
  .next (s.updRegs fun r => r.setDiv (divReloadValue s.params))

/-- DIV_FREEZE, rule R76: `div_cnt <- div_cnt`. -/
def execDivFreeze (s : State) : Host.Outcome State Fault Refusal :=
  .next (s.updRegs fun r => r.setDiv r.divCnt)

end Sys2Proof.Machine
end

