-- ==== Sys2Proof/Machine/Latch.lean ====
section
/-! DEFINITION. The two operations of the initialization latch (spec/43_init_latch.md, section 1). They
write `init_latched` and nothing else. -/

namespace Sys2Proof.Machine

/-- LATCH_SET, rule R120: `init_latched <- 1`. -/
def execLatchSet (s : State) : Host.Outcome State Fault Refusal :=
  .next (s.updRegs fun r => r.latchInit)

/-- LATCH_KEEP, rule R121: `init_latched <- init_latched`. -/
def execLatchKeep (s : State) : Host.Outcome State Fault Refusal :=
  .next s

end Sys2Proof.Machine
end

