-- ==== Sys2Proof/Machine/Reset.lean ====
section
/-! DEFINITION. The RESET operation (spec/70_reset_and_hazards.md, section 1). -/

namespace Sys2Proof.Machine

/-- RESET, rule R160: every register takes its reset value; nothing is saved (rule R145). The
synchronous style is the spec's decision D2 (log entry 9). -/
def execReset (s : State) : Host.Outcome State Fault Refusal :=
  .next (s.updRegs fun _ => Regs.reset s.params)

end Sys2Proof.Machine
end

