-- ==== Sys2Proof/Machine/Transfer.lean ====
section
/-! DEFINITION. The fourteen tick-gated operations (spec/41_transfer_fsm.md), each with its state
transition and its datapath action. They write `st`, `sr`, `bit_cnt`, `word_cnt` and `initialized`; a
register a rule does not mention keeps its value. Selecting an operation is the decoder's part: a
meaning does what its rule's pseudocode says (log entry 8). -/

namespace Sys2Proof.Machine

/-- FSM_HOLD, rule R94: nothing is written. -/
def execFsmHold (s : State) : Host.Outcome State Fault Refusal :=
  .next s

/-- IDLE_WAIT, rule R81. -/
def execIdleWait (s : State) : Host.Outcome State Fault Refusal :=
  .next (s.updRegs fun r => ((r.goTo .idle).reloadBits).setWords (allWords s.params))

/-- START_NORMAL, rule R82: all of `data` is loaded. -/
def execStartNormal (s : State) : Host.Outcome State Fault Refusal :=
  .next (s.updRegs fun r =>
    (((r.goTo .setup).loadSr (loadNormal s.inputs.data)).reloadBits).setWords (allWords s.params))

/-- START_INIT, rule R83: segment 0 of `data` is loaded into the top slot, for one word. -/
def execStartInit (s : State) : Host.Outcome State Fault Refusal :=
  .next (s.updRegs fun r =>
    (((r.goTo .setup).loadSr (loadInit s.inputs.data)).reloadBits).setWords (oneWord s.params))

/-- SETUP_NEXT, rule R84. -/
def execSetupNext (s : State) : Host.Outcome State Fault Refusal :=
  .next (s.updRegs fun r => r.goTo .hold)

/-- SETUP_LAST, rule R85. -/
def execSetupLast (s : State) : Host.Outcome State Fault Refusal :=
  .next (s.updRegs fun r => r.goTo .delay)

/-- HOLD_SHIFT, rule R86. -/
def execHoldShift (s : State) : Host.Outcome State Fault Refusal :=
  .next (s.updRegs fun r => ((r.goTo .setup).countBit).shiftSr)

/-- DELAY_END, rule R87. -/
def execDelayEnd (s : State) : Host.Outcome State Fault Refusal :=
  .next (s.updRegs fun r => ((r.goTo .busyLow).countWord).shiftSr)

/-- BUSYLOW_WAIT, rule R88. -/
def execBusylowWait (s : State) : Host.Outcome State Fault Refusal :=
  .next (s.updRegs fun r => r.goTo .busyLow)

/-- BUSYLOW_ACK, rule R89. -/
def execBusylowAck (s : State) : Host.Outcome State Fault Refusal :=
  .next (s.updRegs fun r => r.goTo .busyHigh)

/-- BUSYHIGH_WAIT, rule R90. -/
def execBusyhighWait (s : State) : Host.Outcome State Fault Refusal :=
  .next (s.updRegs fun r => r.goTo .busyHigh)

/-- BUSYHIGH_NEXT, rule R91. -/
def execBusyhighNext (s : State) : Host.Outcome State Fault Refusal :=
  .next (s.updRegs fun r => (r.goTo .setup).reloadBits)

/-- BUSYHIGH_DONE, rule R92. -/
def execBusyhighDone (s : State) : Host.Outcome State Fault Refusal :=
  .next (s.updRegs fun r => (r.goTo .idle).reloadBits)

/-- BUSYHIGH_DONE_INIT, rule R93 (its condition is the spec's decision D6, log entry 10). -/
def execBusyhighDoneInit (s : State) : Host.Outcome State Fault Refusal :=
  .next (s.updRegs fun r => ((r.goTo .idle).reloadBits).markInitialized)

end Sys2Proof.Machine
end

