-- ==== Sys2Proof/Machine/Dispatch.lean ====
section
/-! DEFINITION. The dispatch: one arm per operation, one direct call of its meaning. -/

namespace Sys2Proof.Machine

def exec (i : Instr) (s : State) : Host.Outcome State Fault Refusal :=
  match i with
  | .fsmHold => Sys2Proof.Machine.execFsmHold s
  | .idleWait => Sys2Proof.Machine.execIdleWait s
  | .startNormal => Sys2Proof.Machine.execStartNormal s
  | .startInit => Sys2Proof.Machine.execStartInit s
  | .setupNext => Sys2Proof.Machine.execSetupNext s
  | .setupLast => Sys2Proof.Machine.execSetupLast s
  | .holdShift => Sys2Proof.Machine.execHoldShift s
  | .delayEnd => Sys2Proof.Machine.execDelayEnd s
  | .busylowWait => Sys2Proof.Machine.execBusylowWait s
  | .busylowAck => Sys2Proof.Machine.execBusylowAck s
  | .busyhighWait => Sys2Proof.Machine.execBusyhighWait s
  | .busyhighNext => Sys2Proof.Machine.execBusyhighNext s
  | .busyhighDone => Sys2Proof.Machine.execBusyhighDone s
  | .busyhighDoneInit => Sys2Proof.Machine.execBusyhighDoneInit s
  | .divCount => Sys2Proof.Machine.execDivCount s
  | .divReload => Sys2Proof.Machine.execDivReload s
  | .divFreeze => Sys2Proof.Machine.execDivFreeze s
  | .latchKeep => Sys2Proof.Machine.execLatchKeep s
  | .latchSet => Sys2Proof.Machine.execLatchSet s
  | .reset => Sys2Proof.Machine.execReset s

end Sys2Proof.Machine
end

