-- ==== Sys2Proof/Machine/Flags.lean ====
section
/-! DEFINITION. The derived signals of rule R21: functions of the registers and inputs of one cycle,
holding no state. Every rule that names one of them means its definition here. -/

namespace Sys2Proof.Machine

variable {p : Params}

/-- `tick`: true exactly in the cycles where the divider holds 0 (rule R70). -/
def Regs.tick (r : Regs p) : Bool := r.divCnt == 0

/-- `init_pending = (init | init_latched) & ~initialized` (rule R122; the grouping is the spec's
decision D5, log entry 10). -/
def initPending (r : Regs p) (i : Inputs p) : Bool := (i.init || r.initLatched) && !r.initialized

/-- `req = start | init_pending`, the request the state machine sees (rule R80). -/
def req (r : Regs p) (i : Inputs p) : Bool := i.start || initPending r i

/-- `bit_zero`: no bit of the word remains after this one (rule R21). -/
def Regs.bitZero (r : Regs p) : Bool := r.bitCnt == 0

/-- `word_zero`: no word of the transfer remains (rule R21). -/
def Regs.wordZero (r : Regs p) : Bool := r.wordCnt == 0

/-- `div_load`, the state machine's request to the divider (rule R72; the reading of the table's two
columns is the spec's decision D25, log entry 16). -/
def divLoad (r : Regs p) (i : Inputs p) : Bool :=
  match r.st with
  | .idle => req r i
  | .setup => true
  | .hold => true
  | .delay => false
  | .busyLow => false
  | .busyHigh => i.busy && !r.wordZero

/-- `sr_load`, the load pulse: 1 exactly in the cycles that load the shift register (rule R103). -/
def srLoad (r : Regs p) (i : Inputs p) : Bool := r.tick && decide (r.st = .idle) && req r i

end Sys2Proof.Machine
end

