-- ==== Sys2Proof/Machine/Fetch.lean ====
section
/-! DEFINITION. The selector words a cycle builds from its registers and inputs (rules R50 to R52), the
operations they select (rule R54), and the placing of a table word so that the next cycle selects it. -/

namespace Sys2Proof.Machine

/-- The state codes, used in selector words only (rule R50). -/
def FsmState.code : FsmState → BitVec 3
  | .idle => 0
  | .setup => 1
  | .hold => 2
  | .delay => 3
  | .busyLow => 4
  | .busyHigh => 5

/-- The state a code names; codes 6 and 7 name none (rule R57). -/
def FsmState.ofCode (c : BitVec 3) : Option FsmState :=
  match c.toNat with
  | 0 => some .idle
  | 1 => some .setup
  | 2 => some .hold
  | 3 => some .delay
  | 4 => some .busyLow
  | 5 => some .busyHigh
  | _ => none

/-- A format T word from its seven fields, most significant first (rule R51). -/
def packT (tick : Bool) (st : FsmState) (start ip busy bz wz : Bool) : BitVec 9 :=
  BitVec.ofBool tick ++ st.code ++ BitVec.ofBool start ++ BitVec.ofBool ip ++ BitVec.ofBool busy ++
    BitVec.ofBool bz ++ BitVec.ofBool wz

/-- `sel_T` of a cycle (rule R51). -/
def State.selT (s : State) : BitVec 9 :=
  packT s.regs.tick s.regs.st s.inputs.start (initPending s.regs s.inputs) s.inputs.busy
    s.regs.bitZero s.regs.wordZero

/-- `sel_D = {tick, div_load}` (rule R52). -/
def State.selD (s : State) : BitVec 2 :=
  BitVec.ofBool s.regs.tick ++ BitVec.ofBool (divLoad s.regs s.inputs)

/-- `sel_L = init` (rule R52). -/
def State.selL (s : State) : BitVec 1 := BitVec.ofBool s.inputs.init

/-- `sel_R = rst` (rule R52). -/
def State.selR (s : State) : BitVec 1 := BitVec.ofBool s.inputs.rst

/-- The operations of a cycle (rule R54): RESET alone where the R word selects it; else the one format
T, the one format D and the one format L operation its words select. -/
def State.fetch (s : State) : Except DecodeError (List Instr) :=
  match decode (.R s.selR) with
  | .ok i => .ok [i]
  | .error _ =>
    match decode (.T s.selT) with
    | .error e => .error e
    | .ok t =>
      match decode (.D s.selD) with
      | .error e => .error e
      | .ok d =>
        match decode (.L s.selL) with
        | .error e => .error e
        | .ok l => .ok [t, d, l]

/-- A counter made 0 or not 0 as a selector bit asks, kept where it already is so. -/
def forceZero {n : Nat} (zero : Bool) (v : BitVec n) : BitVec n :=
  if zero then 0 else if v = 0 then 1 else v

/-- The state in which the current cycle builds the given selector word (log entry 7): the registers
and input bits the word is built from take the values it asks for, all others stay. A format T word
whose state code names no state leaves `st`. A format D word asks for `div_load` through `st`, SETUP
for 1 and DELAY for 0 (rule R72). -/
def State.placeWord (s : State) : SelWord → State
  | .T w =>
    let ip := w.getLsbD 3
    { s with
      regs :=
        { s.regs with
          divCnt := forceZero (w.getLsbD 8) s.regs.divCnt
          st := (FsmState.ofCode (w.extractLsb' 5 3)).getD s.regs.st
          bitCnt := forceZero (w.getLsbD 1) s.regs.bitCnt
          wordCnt := forceZero (w.getLsbD 0) s.regs.wordCnt
          initLatched := ip
          initialized := !ip && s.regs.initialized }
      inputs :=
        { s.inputs with
          rst := false, start := w.getLsbD 4, init := false, busy := w.getLsbD 2 } }
  | .D w =>
    { s with
      regs :=
        { s.regs with
          divCnt := forceZero (w.getLsbD 1) s.regs.divCnt
          st := if w.getLsbD 0 then .setup else .delay }
      inputs := { s.inputs with rst := false } }
  | .L w => { s with inputs := { s.inputs with rst := false, init := w.getLsbD 0 } }
  | .R w => { s with inputs := { s.inputs with rst := w.getLsbD 0 } }

end Sys2Proof.Machine
end

