-- ==== Sys2Proof/Machine/Cycle.lean ====
section
/-! DEFINITION. One cycle of the system clock: the operations its selector words choose, and then the
inputs of the next cycle. -/

namespace Sys2Proof.Machine

/-- The operations of one cycle, run over the same state. The operations of rule R54 write disjoint
registers and each reads only registers the others of its cycle do not write (R23), so running them one
after another gives what running them at once gives (DEDUCED, log entry 2). -/
def runOps : List Instr → State → Host.Outcome State Fault Refusal
  | [], s => .next s
  | i :: rest, s =>
    match exec i s with
    | .next s' => runOps rest s'
    | .fault f => .fault f
    | .refused r => .refused r

/-- One whole cycle: `S(t+1) = step(C, W, N, S(t), I(t))` (rules R9, R39, R54), with the inputs of the
next cycle in place. -/
def runCycle (s : State) : Host.Outcome State Fault Refusal :=
  match s.fetch with
  | .error e => .refused (.noOperation e)
  | .ok ops =>
    match runOps ops s with
    | .next s' => .next s'.clockEdge
    | .fault f => .fault f
    | .refused r => .refused r

/-- A bare table word in place for the next cycle; a word that has no format is not placed. -/
def State.placeTableWord (s : State) (nbits w : Nat) : State :=
  match tableSelWord nbits w with
  | some sw => s.placeWord sw
  | none => s

end Sys2Proof.Machine
end

