-- ==== Sys2Proof/Machine/Step.lean ====
section
/-! DEFINITION. The host's step: one cycle of the system clock (rule R9), and the placing of a bare
table word so that the next step selects and runs it. -/

namespace Sys2Proof.Machine

/-- One cycle of `clk` (rule R9). -/
def step (s : State) : Host.Outcome State Fault Refusal := runCycle s

/-- The state whose next step selects the operation of the given table word (log entries 6 and 7). -/
def State.withFetchWord (s : State) (nbits w : Nat) : State := s.placeTableWord nbits w

end Sys2Proof.Machine
end

