-- ==== Sys2Proof/Machine/Outputs.lean ====
section
/-! DEFINITION. The five outputs as functions of the registers and inputs of the same cycle
(spec/44_outputs.md). They write no state. -/

namespace Sys2Proof.Machine

variable {p : Params}

/-- `sclk = (st == SETUP)` (rule R131; 0 in the states the table lists none for is decision D23, log
entry 11). -/
def Regs.sclk (r : Regs p) : Bool := decide (r.st = .setup)

/-- `cs_n`: 0 in SETUP, HOLD and DELAY, 1 in the polled states (rule R132; BUSY_HIGH by decision D7,
log entry 11). -/
def Regs.csN (r : Regs p) : Bool :=
  match r.st with
  | .setup => false
  | .hold => false
  | .delay => false
  | .idle => true
  | .busyLow => true
  | .busyHigh => true

/-- `sdo = sr[L-1]` in every state (rule R133). -/
def Regs.sdo (r : Regs p) : Bool := r.sr.getLsbD (p.L - 1)

/-- `ready = (st == IDLE) & ~start & ~init_pending` (rule R134). -/
def ready (r : Regs p) (i : Inputs p) : Bool :=
  decide (r.st = .idle) && !i.start && !initPending r i

/-- The output ports (rule R20). -/
structure Outputs where
  ready : Bool
  initialized : Bool
  sclk : Bool
  csN : Bool
  sdo : Bool
  deriving DecidableEq, Repr

/-- `O(t) = out(C, W, S(t), I(t))` (rules R39, R130). -/
def State.outputs (s : State) : Outputs :=
  { ready := Machine.ready s.regs s.inputs, initialized := s.regs.initialized,
    sclk := s.regs.sclk, csN := s.regs.csN, sdo := s.regs.sdo }

end Sys2Proof.Machine
end

