-- ==== Sys2Proof/Machine/Trace.lean ====
section
/-! DEFINITION. What the spec's notation shows of a run: the rows of a trace (rule R60), the stimulus a
run is given (rule R59), and the pseudo-operations that name sequences of operations (rule R61). -/

namespace Sys2Proof.Machine

/-- The format T operation of a cycle without reset; FSM_HOLD where the cycle has no tick. -/
def State.opT (s : State) : Except DecodeError Instr := decode (.T s.selT)

/-- One row of a trace (rule R60). -/
structure TraceRow (p : Params) where
  cycle : Nat
  regs : Regs p
  inputs : Inputs p
  outputs : Outputs
  selT : BitVec 9
  ops : Except DecodeError (List Instr)
  deriving Repr

/-- The row of the cycle a state is in (rule R60). -/
def State.traceRow (s : State) : TraceRow s.params :=
  { cycle := s.cycle, regs := s.regs, inputs := s.inputs, outputs := s.outputs, selT := s.selT,
    ops := s.fetch }

/-- The state with a stimulus in place: its first entry in this cycle, the others in the next ones. -/
def State.withStimulus (s : State) : List (Inputs s.params) → State
  | [] => s
  | i :: rest => { s with inputs := i, upcoming := rest }

/-- `WORD` with `a` wait cycles in BUSY_LOW and `b` in BUSY_HIGH (rule R61). -/
def wordOps (W a b : Nat) : List Instr :=
  (List.replicate (W - 1) [Instr.setupNext, Instr.holdShift]).flatten ++
    [.setupLast, .delayEnd] ++ List.replicate a .busylowWait ++ [.busylowAck] ++
    List.replicate b .busyhighWait

/-- `NORMAL_XFER`, one pair of wait counts per word (rule R61). -/
def normalXfer (W : Nat) : List (Nat × Nat) → List Instr
  | [] => []
  | (a, b) :: rest =>
    .startNormal :: (wordOps W a b ++
      (rest.flatMap fun ab => .busyhighNext :: wordOps W ab.1 ab.2) ++ [.busyhighDone])

/-- `INIT_XFER` (rule R61). -/
def initXfer (W a b : Nat) : List Instr := .startInit :: (wordOps W a b ++ [.busyhighDoneInit])

end Sys2Proof.Machine
end

