-- ==== Sys2Proof/Safety.lean ====
section
/-! DEFINITION. The terms claims are stated in: one cycle and a run under inputs the environment chooses
freely, the facts every reachable state has, the contract of the driven device, and what the device sees
on the serial pins. -/

namespace Sys2Proof.Machine

variable {p : Params}

/-- One cycle takes the registers `r` under the inputs `i` to `r'`: `S(t+1) = step(C, W, N, S(t), I(t))`
of rule R39, for some inputs given or not given of later cycles. -/
def StepsTo (r : Regs p) (i : Inputs p) (r' : Regs p) : Prop :=
  ∃ upcoming cycle inputs' upcoming' cycle',
    step ⟨p, r, i, upcoming, cycle⟩ = .next ⟨p, r', inputs', upcoming', cycle'⟩

/-- A run: the registers in every cycle, under inputs that are the environment's choice in every cycle
(rule R9). -/
def IsRun (r : Nat → Regs p) (i : Nat → Inputs p) : Prop :=
  ∀ t, StepsTo (r t) (i t) (r (t + 1))

/-- The six facts of rule R27, which hold in every cycle of every run from reset. -/
structure ReachableFacts (r : Regs p) : Prop where
  div_range : r.divCnt.toNat ≤ p.N - 1
  bit_range : r.bitCnt.toNat ≤ p.W - 1
  word_range : r.wordCnt.toNat ≤ p.C
  polled_frozen : r.st = .idle ∨ r.st = .busyLow ∨ r.st = .busyHigh → r.divCnt = 0
  hold_bits : r.st = .hold → 1 ≤ r.bitCnt.toNat
  timed_words : r.st = .setup ∨ r.st = .hold ∨ r.st = .delay → 1 ≤ r.wordCnt.toNat
  idle_empty : r.st = .idle → r.sr = 0
  done_not_pending : r.initialized = true → ∀ i : Inputs p, initPending r i = false

/-- How many bits of the transfer are still to be put on the line, the one on it included. -/
def Regs.bitsLeft (r : Regs p) : Nat :=
  match r.st with
  | .idle => 0
  | .setup => (r.wordCnt.toNat - 1) * p.W + r.bitCnt.toNat + 1
  | .hold => (r.wordCnt.toNat - 1) * p.W + r.bitCnt.toNat + 1
  | .delay => (r.wordCnt.toNat - 1) * p.W + r.bitCnt.toNat + 1
  | .busyLow => r.wordCnt.toNat * p.W
  | .busyHigh => r.wordCnt.toNat * p.W

/-- The invariant every cycle keeps: the facts of rule R27, and what their proof needs of the shift
register (rules R107, R108): below the bits still to be sent it is zero, DELAY has no bit left to
count, and between words at least one word of the transfer is done (rule R15). -/
structure Regs.Inv (r : Regs p) : Prop where
  facts : ReachableFacts r
  delay_bits : r.st = .delay → r.bitCnt = 0
  gap_words : r.st = .busyLow ∨ r.st = .busyHigh → r.wordCnt.toNat ≤ p.C - 1
  drained : ∀ j, j + r.bitsLeft < p.L → r.sr.getLsbD j = false

/-- The contract of the device (rule R171, decision D22): every visit to BUSY_LOW has a cycle with
`busy = 0`, and every visit to BUSY_HIGH a cycle with `busy = 1`, said of what is left of the visit from
any of its cycles on (the level ends the visit where the divider is frozen). A premise about the
environment. -/
def BusyLive (r : Nat → Regs p) (i : Nat → Inputs p) : Prop :=
  (∀ t, (r t).st = .busyLow →
    ∃ n, (i (t + n)).busy = false ∧ ∀ k ≤ n, (r (t + k)).st = .busyLow) ∧
  (∀ t, (r t).st = .busyHigh →
    ∃ n, (i (t + n)).busy = true ∧ ∀ k ≤ n, (r (t + k)).st = .busyHigh)

/-- No reset in the `n` cycles from `t` on. -/
def NoReset (i : Nat → Inputs p) (t n : Nat) : Prop := ∀ k < n, (i (t + k)).rst = false

/-- Was `init` 1 in one of the `n` cycles from `t` on? -/
def initSeen (i : Nat → Inputs p) (t n : Nat) : Bool := (List.range n).any fun k => (i (t + k)).init

/-- The bits a device that samples on the falling edge of `sclk` (rules R109, R137) takes in the `n`
cycle boundaries from `t` on, the first one first. -/
def sampled (r : Nat → Regs p) (t n : Nat) : List Bool :=
  ((List.range n).filter fun k => (r (t + k)).sclk && !(r (t + k + 1)).sclk).map
    fun k => (r (t + k)).sdo

/-- The tick-gated operation a cycle executes where `rst = 0`, read from its selector word (R51, R54). -/
def opOf (r : Regs p) (i : Inputs p) : Except DecodeError Instr := State.opT ⟨p, r, i, [], 0⟩

/-- The tick-gated operations of the `n` cycles from `t` on, FSM_HOLD left out (rule R61). -/
def opsExecuted (r : Nat → Regs p) (i : Nat → Inputs p) (t n : Nat) : List Instr :=
  (List.range n).filterMap fun k =>
    match opOf (r (t + k)) (i (t + k)) with
    | .ok op => if op = .fsmHold then none else some op
    | .error _ => none

/-- How many times `cs_n` falls in the `n` cycle boundaries from `t` on: the frames that open. -/
def framesOpened (r : Nat → Regs p) (t n : Nat) : Nat :=
  ((List.range n).filter fun k => (r (t + k)).csN && !(r (t + k + 1)).csN).length

/-- The cycles that the `j` first words of a transfer take: word `l` takes `2*W*N` cycles and then `a l` in BUSY_LOW and `b l` in BUSY_HIGH (R181). -/
def wordStart (p : Params) (a b : Nat → Nat) : Nat → Nat
  | 0 => 0
  | j + 1 => wordStart p a b j + (2 * p.W * p.N + a j + b j)

/-- The device answers the word whose first SETUP cycle is `t` after `a` cycles in BUSY_LOW and `b` in
BUSY_HIGH: `busy` is 1 in the first `a - 1` cycles after the word, then 0 for `b` cycles (the last
cycle of BUSY_LOW and all of BUSY_HIGH but its last), then 1 (rules R88 to R93, R181). -/
def DeviceAnswers (i : Nat → Inputs p) (t a b : Nat) : Prop :=
  1 ≤ a ∧ 1 ≤ b ∧
  (∀ k < a - 1, (i (t + 2 * p.W * p.N + k)).busy = true) ∧
  (∀ k < b, (i (t + 2 * p.W * p.N + (a - 1) + k)).busy = false) ∧
  (i (t + 2 * p.W * p.N + (a - 1) + b)).busy = true

end Sys2Proof.Machine
end

