-- ==== Sys2Proof/Certificates/Slice0/Obligations.lean ====
section
/-! DEFINITION. The statements about the core, from the numbered rules of spec/. A register update written
`{ r with … }` is the operation's whole effect and its frame: every register it does not name keeps its
value. Statements about a cycle hold for all parameters `C`, `W`, `N`, all registers and all inputs. -/

open Sys2Proof Sys2Proof.Machine

/-! ## The tick-gated operations -/

/-- R94. FSM_HOLD writes no register; in a cycle without a tick the state machine and the datapath keep
every register, whatever the inputs are, only the divider (DIV_COUNT, R74) and the latch (R120) go on;
under the facts of R27 such a cycle is one of SETUP, HOLD or DELAY, and `N` is not 1. -/
def Obligations.FsmHoldKeepsTickGatedRegisters : Prop :=
  ∀ (p : Params) (r : Regs p) (i : Inputs p) (u : List (Inputs p)) (c : Nat),
    exec .fsmHold ⟨p, r, i, u, c⟩ = .next ⟨p, r, i, u, c⟩ ∧
    (i.rst = false → r.divCnt ≠ 0 →
      step ⟨p, r, i, u, c⟩ = .next (State.clockEdge
        ⟨p, { r with divCnt := r.divCnt - 1, initLatched := r.initLatched || i.init }, i, u, c⟩)) ∧
    (ReachableFacts r → opOf r i = .ok .fsmHold →
      (r.st = .setup ∨ r.st = .hold ∨ r.st = .delay) ∧ p.N ≠ 1)

/-- R81. IDLE_WAIT stays in IDLE and sets the two counters; DIV_FREEZE goes with it. -/
def Obligations.IdleWaitPresetsCounters : Prop :=
  ∀ (p : Params) (r : Regs p) (i : Inputs p) (u : List (Inputs p)) (c : Nat),
    exec .idleWait ⟨p, r, i, u, c⟩ =
      .next ⟨p, { r with st := .idle, bitCnt := BitVec.ofNat _ (p.W - 1),
                         wordCnt := BitVec.ofNat _ p.C }, i, u, c⟩ ∧
    (i.rst = false → r.divCnt = 0 → r.st = .idle → i.start = false → initPending r i = false →
      step ⟨p, r, i, u, c⟩ = .next (State.clockEdge
        ⟨p, { r with bitCnt := BitVec.ofNat _ (p.W - 1), wordCnt := BitVec.ofNat _ p.C,
                     initLatched := r.initLatched || i.init }, i, u, c⟩))

/-- R82. START_NORMAL loads all of `data`; DIV_RELOAD goes with it; `ready` is 0 in this very cycle. That
`data` has no effect in a later cycle is `Obligations.DataIsReadOnlyByTheLoad` (log entry 14). -/
def Obligations.StartNormalLoadsAllOfData : Prop :=
  ∀ (p : Params) (r : Regs p) (i : Inputs p) (u : List (Inputs p)) (c : Nat),
    exec .startNormal ⟨p, r, i, u, c⟩ =
      .next ⟨p, { r with st := .setup, sr := i.data, bitCnt := BitVec.ofNat _ (p.W - 1),
                         wordCnt := BitVec.ofNat _ p.C }, i, u, c⟩ ∧
    (i.rst = false → r.divCnt = 0 → r.st = .idle → i.start = true → initPending r i = false →
      ready r i = false ∧
      step ⟨p, r, i, u, c⟩ = .next (State.clockEdge
        ⟨p, { r with st := .setup, sr := i.data, bitCnt := BitVec.ofNat _ (p.W - 1),
                     wordCnt := BitVec.ofNat _ p.C, divCnt := BitVec.ofNat _ (p.N - 1),
                     initLatched := r.initLatched || i.init }, i, u, c⟩))

/-- R83 with the spec's own decision D13 (log entry 13): START_INIT loads segment 0 into the top slot for
one word, whatever `start` is; `init_latched` is 1 from the next cycle on. -/
def Obligations.StartInitLoadsSegmentZero : Prop :=
  ∀ (p : Params) (r : Regs p) (i : Inputs p) (u : List (Inputs p)) (c : Nat),
    exec .startInit ⟨p, r, i, u, c⟩ =
      .next ⟨p, { r with st := .setup, sr := loadInit i.data, bitCnt := BitVec.ofNat _ (p.W - 1),
                         wordCnt := BitVec.ofNat _ 1 }, i, u, c⟩ ∧
    (i.rst = false → r.divCnt = 0 → r.st = .idle → initPending r i = true →
      ready r i = false ∧ r.initialized = false ∧
      step ⟨p, r, i, u, c⟩ = .next (State.clockEdge
        ⟨p, { r with st := .setup, sr := loadInit i.data, bitCnt := BitVec.ofNat _ (p.W - 1),
                     wordCnt := BitVec.ofNat _ 1, divCnt := BitVec.ofNat _ (p.N - 1),
                     initLatched := true }, i, u, c⟩))

/-- R84. SETUP_NEXT goes to HOLD and writes no datapath register: `sclk` falls, `sdo` stays; DIV_RELOAD
goes with it; with `bit_cnt` in its range it is never executed when `W = 1`. -/
def Obligations.SetupNextDropsTheClock : Prop :=
  ∀ (p : Params) (r : Regs p) (i : Inputs p) (u : List (Inputs p)) (c : Nat),
    exec .setupNext ⟨p, r, i, u, c⟩ = .next ⟨p, { r with st := .hold }, i, u, c⟩ ∧
    (i.rst = false → r.divCnt = 0 → r.st = .setup → r.bitCnt ≠ 0 →
      (r.bitCnt.toNat ≤ p.W - 1 → p.W ≠ 1) ∧
      r.sclk = true ∧ ({ r with st := .hold } : Regs p).sclk = false ∧
      ({ r with st := .hold } : Regs p).sdo = r.sdo ∧
      step ⟨p, r, i, u, c⟩ = .next (State.clockEdge
        ⟨p, { r with st := .hold, divCnt := BitVec.ofNat _ (p.N - 1),
                     initLatched := r.initLatched || i.init }, i, u, c⟩))

/-- R85. SETUP_LAST goes to DELAY and writes no datapath register: `sclk` falls for the last bit, `cs_n`
stays 0, `sdo` stays; DIV_RELOAD goes with it; with `W = 1` it is the only operation of SETUP. -/
def Obligations.SetupLastEntersDelay : Prop :=
  ∀ (p : Params) (r : Regs p) (i : Inputs p) (u : List (Inputs p)) (c : Nat),
    exec .setupLast ⟨p, r, i, u, c⟩ = .next ⟨p, { r with st := .delay }, i, u, c⟩ ∧
    (i.rst = false → r.divCnt = 0 → r.st = .setup → r.bitCnt = 0 →
      r.sclk = true ∧ ({ r with st := .delay } : Regs p).sclk = false ∧
      r.csN = false ∧ ({ r with st := .delay } : Regs p).csN = false ∧
      ({ r with st := .delay } : Regs p).sdo = r.sdo ∧
      step ⟨p, r, i, u, c⟩ = .next (State.clockEdge
        ⟨p, { r with st := .delay, divCnt := BitVec.ofNat _ (p.N - 1),
                     initLatched := r.initLatched || i.init }, i, u, c⟩)) ∧
    (p.W = 1 → r.bitCnt.toNat ≤ p.W - 1 → r.divCnt = 0 → r.st = .setup → opOf r i = .ok .setupLast)

/-- R86. HOLD_SHIFT goes to SETUP, counts the bit and shifts a 0 in at the right; where `bit_cnt` is at
least 1 the decrement does not underflow; `sclk` rises; DIV_RELOAD goes with it. -/
def Obligations.HoldShiftBringsTheNextBit : Prop :=
  ∀ (p : Params) (r : Regs p) (i : Inputs p) (u : List (Inputs p)) (c : Nat),
    exec .holdShift ⟨p, r, i, u, c⟩ =
      .next ⟨p, { r with st := .setup, bitCnt := r.bitCnt - 1, sr := r.sr <<< 1 }, i, u, c⟩ ∧
    (1 ≤ r.bitCnt.toNat → (r.bitCnt - 1).toNat = r.bitCnt.toNat - 1) ∧
    (i.rst = false → r.divCnt = 0 → r.st = .hold →
      r.sclk = false ∧ ({ r with st := .setup } : Regs p).sclk = true ∧
      step ⟨p, r, i, u, c⟩ = .next (State.clockEdge
        ⟨p, { r with st := .setup, bitCnt := r.bitCnt - 1, sr := r.sr <<< 1,
                     divCnt := BitVec.ofNat _ (p.N - 1),
                     initLatched := r.initLatched || i.init }, i, u, c⟩))

/-- R87. DELAY_END goes to BUSY_LOW, counts the word and shifts once more; where `word_cnt` is at least 1
the decrement does not underflow; `cs_n` rises; DIV_FREEZE goes with it. What the polled states do in later
cycles is stated with their own operations. -/
def Obligations.DelayEndClosesTheFrame : Prop :=
  ∀ (p : Params) (r : Regs p) (i : Inputs p) (u : List (Inputs p)) (c : Nat),
    exec .delayEnd ⟨p, r, i, u, c⟩ =
      .next ⟨p, { r with st := .busyLow, wordCnt := r.wordCnt - 1, sr := r.sr <<< 1 }, i, u, c⟩ ∧
    (1 ≤ r.wordCnt.toNat → (r.wordCnt - 1).toNat = r.wordCnt.toNat - 1) ∧
    (i.rst = false → r.divCnt = 0 → r.st = .delay →
      r.csN = false ∧ ({ r with st := .busyLow } : Regs p).csN = true ∧
      step ⟨p, r, i, u, c⟩ = .next (State.clockEdge
        ⟨p, { r with st := .busyLow, wordCnt := r.wordCnt - 1, sr := r.sr <<< 1,
                     initLatched := r.initLatched || i.init }, i, u, c⟩))

/-- R88. BUSYLOW_WAIT stays in BUSY_LOW while `busy` is 1 and writes nothing; DIV_FREEZE goes with it. -/
def Obligations.BusylowWaitStays : Prop :=
  ∀ (p : Params) (r : Regs p) (i : Inputs p) (u : List (Inputs p)) (c : Nat),
    exec .busylowWait ⟨p, r, i, u, c⟩ = .next ⟨p, { r with st := .busyLow }, i, u, c⟩ ∧
    (i.rst = false → r.divCnt = 0 → r.st = .busyLow → i.busy = true →
      step ⟨p, r, i, u, c⟩ = .next (State.clockEdge
        ⟨p, { r with initLatched := r.initLatched || i.init }, i, u, c⟩))

/-- R89. BUSYLOW_ACK goes to BUSY_HIGH on level 0 of `busy`, all else unchanged; DIV_FREEZE goes with it. -/
def Obligations.BusylowAckSeesLevelZero : Prop :=
  ∀ (p : Params) (r : Regs p) (i : Inputs p) (u : List (Inputs p)) (c : Nat),
    exec .busylowAck ⟨p, r, i, u, c⟩ = .next ⟨p, { r with st := .busyHigh }, i, u, c⟩ ∧
    (i.rst = false → r.divCnt = 0 → r.st = .busyLow → i.busy = false →
      step ⟨p, r, i, u, c⟩ = .next (State.clockEdge
        ⟨p, { r with st := .busyHigh, initLatched := r.initLatched || i.init }, i, u, c⟩))

/-- R90. BUSYHIGH_WAIT stays in BUSY_HIGH while `busy` is 0, whatever the other registers and inputs are,
and writes nothing; DIV_FREEZE goes with it. -/
def Obligations.BusyhighWaitStays : Prop :=
  ∀ (p : Params) (r : Regs p) (i : Inputs p) (u : List (Inputs p)) (c : Nat),
    exec .busyhighWait ⟨p, r, i, u, c⟩ = .next ⟨p, { r with st := .busyHigh }, i, u, c⟩ ∧
    (i.rst = false → r.divCnt = 0 → r.st = .busyHigh → i.busy = false →
      step ⟨p, r, i, u, c⟩ = .next (State.clockEdge
        ⟨p, { r with initLatched := r.initLatched || i.init }, i, u, c⟩))

/-- R91. BUSYHIGH_NEXT begins the next word: SETUP with `bit_cnt = W - 1`, `sr` and `initialized` not
written even with an init request pending; DIV_RELOAD goes with it; not executed where `word_cnt` is 0, nor,
under the invariant of this file, with `C = 1`. That a completed init transfer does not execute it is
`Obligations.TransferRunsItsOperations`. -/
def Obligations.BusyhighNextBeginsAWord : Prop :=
  ∀ (p : Params) (r : Regs p) (i : Inputs p) (u : List (Inputs p)) (c : Nat),
    exec .busyhighNext ⟨p, r, i, u, c⟩ =
      .next ⟨p, { r with st := .setup, bitCnt := BitVec.ofNat _ (p.W - 1) }, i, u, c⟩ ∧
    (opOf r i = .ok .busyhighNext → r.wordCnt ≠ 0 ∧ (r.Inv → p.C ≠ 1)) ∧
    (i.rst = false → r.divCnt = 0 → r.st = .busyHigh → i.busy = true → r.wordCnt ≠ 0 →
      step ⟨p, r, i, u, c⟩ = .next (State.clockEdge
        ⟨p, { r with st := .setup, bitCnt := BitVec.ofNat _ (p.W - 1),
                     divCnt := BitVec.ofNat _ (p.N - 1),
                     initLatched := r.initLatched || i.init }, i, u, c⟩))

/-- R92. BUSYHIGH_DONE returns to IDLE with `bit_cnt = W - 1`; `word_cnt` stays 0 and `initialized` is not
written; DIV_FREEZE goes with it; under the invariant of this file `sr` is 0. -/
def Obligations.BusyhighDoneReturnsToIdle : Prop :=
  ∀ (p : Params) (r : Regs p) (i : Inputs p) (u : List (Inputs p)) (c : Nat),
    exec .busyhighDone ⟨p, r, i, u, c⟩ =
      .next ⟨p, { r with st := .idle, bitCnt := BitVec.ofNat _ (p.W - 1) }, i, u, c⟩ ∧
    (i.rst = false → r.divCnt = 0 → r.st = .busyHigh → i.busy = true → r.wordCnt = 0 →
        initPending r i = false →
      step ⟨p, r, i, u, c⟩ = .next (State.clockEdge
        ⟨p, { r with st := .idle, bitCnt := BitVec.ofNat _ (p.W - 1),
                     initLatched := r.initLatched || i.init }, i, u, c⟩)) ∧
    (r.Inv → opOf r i = .ok .busyhighDone → r.sr = 0)

/-- R93 with the spec's own decision D6 (log entry 10): BUSYHIGH_DONE_INIT returns to IDLE and sets
`initialized`, also where only the raw `init` of this cycle asks; from then on no init request is
pending; DIV_FREEZE goes with it. -/
def Obligations.BusyhighDoneInitSetsInitialized : Prop :=
  ∀ (p : Params) (r : Regs p) (i : Inputs p) (u : List (Inputs p)) (c : Nat),
    exec .busyhighDoneInit ⟨p, r, i, u, c⟩ =
      .next ⟨p, { r with st := .idle, bitCnt := BitVec.ofNat _ (p.W - 1), initialized := true },
              i, u, c⟩ ∧
    (∀ j : Inputs p, initPending ({ r with initialized := true } : Regs p) j = false) ∧
    (i.rst = false → r.divCnt = 0 → r.st = .busyHigh → i.busy = true → r.wordCnt = 0 →
        initPending r i = true →
      step ⟨p, r, i, u, c⟩ = .next (State.clockEdge
        ⟨p, { r with st := .idle, bitCnt := BitVec.ofNat _ (p.W - 1), initialized := true,
                     initLatched := true }, i, u, c⟩))

/-! ## The divider, the latch, reset -/

/-- R74. DIV_COUNT counts `div_cnt` down and writes nothing else; a cycle without a tick does so, whatever
`div_load` is, without underflow; with `N = 1` and `div_cnt` in its range there is no such cycle. -/
def Obligations.DivCountDecrements : Prop :=
  ∀ (p : Params) (r : Regs p) (i : Inputs p) (u : List (Inputs p)) (c : Nat),
    exec .divCount ⟨p, r, i, u, c⟩ = .next ⟨p, { r with divCnt := r.divCnt - 1 }, i, u, c⟩ ∧
    (i.rst = false → r.tick = false →
      (r.divCnt.toNat ≤ p.N - 1 → p.N ≠ 1) ∧
      ∀ r', StepsTo r i r' → r'.divCnt.toNat = r.divCnt.toNat - 1 ∧ 1 ≤ r.divCnt.toNat)

/-- R75. DIV_RELOAD writes `N - 1` into `div_cnt` and nothing else; a tick with `div_load = 1` does so,
and with `N = 1` the next cycle is a tick cycle again. -/
def Obligations.DivReloadSetsThePeriod : Prop :=
  ∀ (p : Params) (r : Regs p) (i : Inputs p) (u : List (Inputs p)) (c : Nat),
    exec .divReload ⟨p, r, i, u, c⟩ =
      .next ⟨p, { r with divCnt := BitVec.ofNat _ (p.N - 1) }, i, u, c⟩ ∧
    (i.rst = false → r.tick = true → divLoad r i = true →
      ∀ r', StepsTo r i r' → r'.divCnt.toNat = p.N - 1 ∧ (p.N = 1 → r'.tick = true))

/-- R76. DIV_FREEZE keeps `div_cnt` and writes nothing else; a tick without `div_load` does so, and the
next cycle is a tick cycle again. -/
def Obligations.DivFreezeKeepsTicking : Prop :=
  ∀ (p : Params) (r : Regs p) (i : Inputs p) (u : List (Inputs p)) (c : Nat),
    exec .divFreeze ⟨p, r, i, u, c⟩ = .next ⟨p, r, i, u, c⟩ ∧
    (i.rst = false → r.tick = true → divLoad r i = false →
      ∀ r', StepsTo r i r' → r'.divCnt = 0 ∧ r'.tick = true)

/-- R120. LATCH_SET sets `init_latched` and writes nothing else; every cycle with `init = 1` does so, in
any state, with or without a tick, whatever `initialized` is. -/
def Obligations.LatchSetInAnyCycle : Prop :=
  ∀ (p : Params) (r : Regs p) (i : Inputs p) (u : List (Inputs p)) (c : Nat),
    exec .latchSet ⟨p, r, i, u, c⟩ = .next ⟨p, { r with initLatched := true }, i, u, c⟩ ∧
    (i.rst = false → i.init = true → ∀ r', StepsTo r i r' → r'.initLatched = true)

/-- R121. LATCH_KEEP writes nothing; a cycle with `init = 0` keeps `init_latched`, also after
initialization. -/
def Obligations.LatchKeepIsSticky : Prop :=
  ∀ (p : Params) (r : Regs p) (i : Inputs p) (u : List (Inputs p)) (c : Nat),
    exec .latchKeep ⟨p, r, i, u, c⟩ = .next ⟨p, r, i, u, c⟩ ∧
    (i.rst = false → i.init = false → ∀ r', StepsTo r i r' → r'.initLatched = r.initLatched)

/-- R160 with the spec's own decisions D2 and D10 (log entry 9): RESET gives every register its reset
value; a cycle with `rst = 1` does so whatever else is true, and in the cycle after it the outputs are
those of R160 and a further reset cycle changes nothing. -/
def Obligations.ResetClearsEverything : Prop :=
  ∀ (p : Params) (r : Regs p) (i : Inputs p) (u : List (Inputs p)) (c : Nat),
    let zero : Regs p :=
      { st := .idle, divCnt := 0, sr := 0, bitCnt := 0, wordCnt := 0, initLatched := false,
        initialized := false }
    exec .reset ⟨p, r, i, u, c⟩ = .next ⟨p, zero, i, u, c⟩ ∧
    (i.rst = true →
      step ⟨p, r, i, u, c⟩ = .next (State.clockEdge ⟨p, zero, i, u, c⟩) ∧
      ∀ j : Inputs p,
        (State.outputs ⟨p, zero, j, u, c⟩) =
          { ready := !(j.start || j.init), initialized := false, sclk := false, csN := true,
            sdo := false } ∧
        (j.rst = true → ∀ r', StepsTo zero j r' → r' = zero))

/-! ## The cycle -/

/-- A cycle without reset runs the three operations its selector words decode to, one after another, and
then the inputs of the next cycle come in, the next given ones where some are given; a cycle with reset
runs RESET alone (R54). The order of the three and the end of the cycle, which writes no register, are
the model's (log entries 2 and 3). -/
def Obligations.StepRunsTheDecodedOperations : Prop :=
  ∀ s : State,
    (s.inputs.rst = false → ∀ t d l s₁ s₂ s₃,
      decode (.T s.selT) = .ok t → decode (.D s.selD) = .ok d → decode (.L s.selL) = .ok l →
      exec t s = .next s₁ → exec d s₁ = .next s₂ → exec l s₂ = .next s₃ →
      step s = .next s₃.clockEdge) ∧
    (s.inputs.rst = true → ∀ i s₁,
      decode (.R s.selR) = .ok i → exec i s = .next s₁ → step s = .next s₁.clockEdge) ∧
    (∀ (j : Inputs s.params) (u : List (Inputs s.params)),
      State.clockEdge { s with upcoming := j :: u } =
        { s with inputs := j, upcoming := u, cycle := s.cycle + 1 }) ∧
    ∃ j : Inputs s.params,
      State.clockEdge { s with upcoming := [] } =
        { s with inputs := j, upcoming := [], cycle := s.cycle + 1 }

/-- The operations of one cycle may run in any order: a format T, a format D and a format L operation
write disjoint registers and read nothing the others write (R54, R39), for every operation of each format,
over every state. -/
def Obligations.OperationsOfACycleCommute : Prop :=
  ∀ (t d l : Instr) (wt : BitVec 9) (wd : BitVec 2) (wl : BitVec 1),
    encode t = .T wt → encode d = .D wd → encode l = .L wl →
    ∀ (s : State) (ops : List Instr), ops.Perm [t, d, l] → runOps ops s = runOps [t, d, l] s

/-- No operation faults or refuses, and the step is total on every state and every input: R140. That the
`cycle` number of the next state is one higher is about the model's own field, which RESET does not set back,
and is the model's choice (log entry 3, DESIGN CHOICE), not a rule of the spec. -/
def Obligations.EveryCycleHasANextState : Prop :=
  (∀ (op : Instr) (s : State), ∃ s', exec op s = .next s') ∧
  ∀ s : State, ∃ s', step s = .next s' ∧ s'.cycle = s.cycle + 1

/-- R39. The registers of the next cycle are one function of registers and inputs of this one: they exist
and are unique, whatever inputs are given or free for later cycles; so are the outputs. In a cycle without
reset each of the three operations reads the registers of this cycle only, and their writes, to disjoint
registers, land together. -/
def Obligations.StepIsAFunctionOfRegistersAndInputs : Prop :=
  ∀ (p : Params) (r : Regs p) (i : Inputs p),
    ∃ r', StepsTo r i r' ∧ (∀ r'', StepsTo r i r'' → r'' = r') ∧
      (∀ (u : List (Inputs p)) (c : Nat),
        step ⟨p, r, i, u, c⟩ = .next (State.clockEdge ⟨p, r', i, u, c⟩)) ∧
      (∀ (u v : List (Inputs p)) (c d : Nat),
        State.outputs ⟨p, r, i, u, c⟩ = State.outputs ⟨p, r, i, v, d⟩) ∧
      (i.rst = false → ∀ (u : List (Inputs p)) (c : Nat) (t d l : Instr) (rt rd rl : Regs p),
        State.fetch ⟨p, r, i, u, c⟩ = .ok [t, d, l] →
        exec t ⟨p, r, i, u, c⟩ = .next ⟨p, rt, i, u, c⟩ →
        exec d ⟨p, r, i, u, c⟩ = .next ⟨p, rd, i, u, c⟩ →
        exec l ⟨p, r, i, u, c⟩ = .next ⟨p, rl, i, u, c⟩ →
        r' = { rt with divCnt := rd.divCnt, initLatched := rl.initLatched })

/-! ## Decoding -/

/-- Words written out from the patterns of R53 and from the traces of spec/95_test_vectors.md decode to
the operations they stand for there. -/
def Obligations.WrittenWordsDecode : Prop :=
  decode (.T 0b000101100#9) = .ok .fsmHold ∧ decode (.T 0b100000111#9) = .ok .idleWait ∧
  decode (.T 0b100010100#9) = .ok .startNormal ∧ decode (.T 0b100011100#9) = .ok .startInit ∧
  decode (.T 0b100100100#9) = .ok .setupNext ∧ decode (.T 0b100100110#9) = .ok .setupLast ∧
  decode (.T 0b101000100#9) = .ok .holdShift ∧ decode (.T 0b101100110#9) = .ok .delayEnd ∧
  decode (.T 0b110000110#9) = .ok .busylowWait ∧ decode (.T 0b110000010#9) = .ok .busylowAck ∧
  decode (.T 0b110101011#9) = .ok .busyhighWait ∧ decode (.T 0b110101110#9) = .ok .busyhighNext ∧
  decode (.T 0b110110111#9) = .ok .busyhighDone ∧ decode (.T 0b110101111#9) = .ok .busyhighDoneInit ∧
  decode (.D 0b01#2) = .ok .divCount ∧ decode (.D 0b11#2) = .ok .divReload ∧
  decode (.D 0b10#2) = .ok .divFreeze ∧ decode (.L 0b0#1) = .ok .latchKeep ∧
  decode (.L 0b1#1) = .ok .latchSet ∧ decode (.R 0b1#1) = .ok .reset

/-- R53. Each operation is selected exactly by the words of its format with `(sel & mask) == match`, for
the `match` and `mask` of its row, and each format T operation leaves the state its row names. -/
def Obligations.DecodeIsThePatternTable : Prop :=
  (∀ w : BitVec 9, ∀ op : Instr, decode (.T w) = .ok op ↔
    (op, w &&& 0x100#9) = (.fsmHold, 0x000#9) ∨ (op, w &&& 0x1F8#9) = (.idleWait, 0x100#9) ∨
    (op, w &&& 0x1F8#9) = (.startNormal, 0x110#9) ∨ (op, w &&& 0x1E8#9) = (.startInit, 0x108#9) ∨
    (op, w &&& 0x1E2#9) = (.setupNext, 0x120#9) ∨ (op, w &&& 0x1E2#9) = (.setupLast, 0x122#9) ∨
    (op, w &&& 0x1E0#9) = (.holdShift, 0x140#9) ∨ (op, w &&& 0x1E0#9) = (.delayEnd, 0x160#9) ∨
    (op, w &&& 0x1E4#9) = (.busylowWait, 0x184#9) ∨ (op, w &&& 0x1E4#9) = (.busylowAck, 0x180#9) ∨
    (op, w &&& 0x1E4#9) = (.busyhighWait, 0x1A0#9) ∨ (op, w &&& 0x1E5#9) = (.busyhighNext, 0x1A4#9) ∨
    (op, w &&& 0x1ED#9) = (.busyhighDone, 0x1A5#9) ∨
    (op, w &&& 0x1ED#9) = (.busyhighDoneInit, 0x1AD#9)) ∧
  (∀ w : BitVec 2, ∀ op : Instr, decode (.D w) = .ok op ↔
    (op, w &&& 2#2) = (.divCount, 0#2) ∨ (op, w &&& 3#2) = (.divReload, 3#2) ∨
    (op, w &&& 3#2) = (.divFreeze, 2#2)) ∧
  (∀ w : BitVec 1, ∀ op : Instr, decode (.L w) = .ok op ↔
    (op, w &&& 1#1) = (.latchKeep, 0#1) ∨ (op, w &&& 1#1) = (.latchSet, 1#1)) ∧
  (∀ w : BitVec 1, ∀ op : Instr, decode (.R w) = .ok op ↔ (op, w &&& 1#1) = (.reset, 1#1)) ∧
  (∀ s : State, ∀ e ∈ [(Instr.fsmHold, s.regs.st), (.idleWait, .idle), (.startNormal, .setup),
      (.startInit, .setup), (.setupNext, .hold), (.setupLast, .delay), (.holdShift, .setup),
      (.delayEnd, .busyLow), (.busylowWait, .busyLow), (.busylowAck, .busyHigh),
      (.busyhighWait, .busyHigh), (.busyhighNext, .setup), (.busyhighDone, .idle),
      (.busyhighDoneInit, .idle)],
    ∃ s', exec e.1 s = .next s' ∧ s'.regs.st = e.2)

/-- Every well-formed selector word, whatever its don't-care bits, fits exactly one operation's encoding and
decodes to it (R55 for formats T, D and L); a word that is not well formed fits none and is refused by name.
So decode gives back every operation from every word the encoding admits. Which words are not well formed:
a tick with state code 6 or 7, by the spec's decision D15 (R57, log entry 17); and an R word of 0, by the
model's reading of the pattern table R53, where format R has the one pattern `1` (log entry 17, DEDUCED),
while R55 words it otherwise ('the format L and R patterns all values of their bit'). -/
def Obligations.EveryWordFitsOneEncoding : Prop :=
  ∀ w : SelWord,
    (w.wellFormed = true → ∃ op, decode w = .ok op ∧ w.fits (encodeMask op) (encode op) = true ∧
      ∀ op', w.fits (encodeMask op') (encode op') = true → op' = op) ∧
    (w.wellFormed = false → (∃ e, decode w = .error e) ∧
      ∀ op, w.fits (encodeMask op) (encode op) = false)

/-- R51, R52. The selector words of a cycle hold, bit by bit, what the rules put into them, and they alone
choose its operations. -/
def Obligations.SelectorWordsHoldTheirFields : Prop :=
  (∀ s s' : State, s.selT = s'.selT → s.opT = s'.opT ∧
    (s.selD = s'.selD → s.selL = s'.selL → s.selR = s'.selR → s.fetch = s'.fetch)) ∧
  ∀ s : State,
    s.selT.getLsbD 8 = (s.regs.divCnt == 0) ∧ s.selT.extractLsb' 5 3 = s.regs.st.code ∧
    s.selT.getLsbD 4 = s.inputs.start ∧ s.selT.getLsbD 3 = initPending s.regs s.inputs ∧
    s.selT.getLsbD 2 = s.inputs.busy ∧ s.selT.getLsbD 1 = (s.regs.bitCnt == 0) ∧
    s.selT.getLsbD 0 = (s.regs.wordCnt == 0) ∧
    s.selD.getLsbD 1 = (s.regs.divCnt == 0) ∧ s.selD.getLsbD 0 = divLoad s.regs s.inputs ∧
    s.selL.getLsbD 0 = s.inputs.init ∧ s.selR.getLsbD 0 = s.inputs.rst

/-- The model's placing of a table word (log entries 6 and 7): the next cycle executes the operation the
word decodes to, and the state it is placed in keeps its parameters, `sr`, `data` and later inputs. -/
def Obligations.PlacedWordIsExecuted : Prop :=
  ∀ (p : Params) (r : Regs p) (i : Inputs p) (u : List (Inputs p)) (c nbits w : Nat) (op : Instr),
    decodeTableWord nbits w = some op →
      ∃ r' i', State.withFetchWord ⟨p, r, i, u, c⟩ nbits w = ⟨p, r', i', u, c⟩ ∧
        r'.sr = r.sr ∧ i'.data = i.data ∧
        ∃ ops, State.fetch ⟨p, r', i', u, c⟩ = .ok ops ∧ op ∈ ops

/-! ## Values, derived signals, outputs -/

/-- R100. `shl1` moves every bit one place up, puts 0 at the bottom and drops the top; `k` times it is a
shift by `k`, and `L` or more times it gives 0. -/
def Obligations.ShiftInjectsZero : Prop :=
  ∀ (p : Params) (v : BitVec p.L),
    (∀ j < p.L, (shl1 v).getLsbD j = if j = 0 then false else v.getLsbD (j - 1)) ∧
    (∀ k, shl1^[k] v = v <<< k) ∧ (∀ k, p.L ≤ k → shl1^[k] v = 0)

/-- R101, R102. The normal image is `data` verbatim, every segment in its place; the init image has
segment 0 of `data` in the top slot and zeros in all other slots, so bits above segment 0 are ignored; with
`C = 1` the two agree. -/
def Obligations.LoadImages : Prop :=
  ∀ (p : Params) (v v' : BitVec p.L),
    loadNormal v = v ∧ (∀ k < p.C, seg k (loadNormal v) = seg k v) ∧
    loadInit v = (v.setWidth p.W).setWidth p.L <<< ((p.C - 1) * p.W) ∧
    seg (p.C - 1) (loadInit v) = seg 0 v ∧ (∀ k < p.C - 1, seg k (loadInit v) = 0) ∧
    (seg 0 v = seg 0 v' → loadInit v = loadInit v') ∧ (p.C = 1 → loadInit v = loadNormal v)

/-- R31, for the values (which device channel a segment is for is the spec's decision D12): segment `k` is
bits `k*W + W - 1` down to `k*W`, and the segments are the whole value. -/
def Obligations.SegmentsAreTheData : Prop :=
  ∀ (p : Params) (v v' : BitVec p.L),
    (∀ k < p.C, ∀ b < p.W, (seg k v).getLsbD b = v.getLsbD (k * p.W + b)) ∧
    ((∀ k < p.C, seg k v = seg k v') → v = v')

/-- R7 and R104 with the spec's decision D9 (log entry 12): a width is the least that holds its maximum
and at least 1; every constant fits its register; a decrement is `x - 1`, and from 0 it wraps. -/
def Obligations.CountersHoldTheirConstants : Prop :=
  (∀ m, 1 ≤ width m ∧ m < 2 ^ width m ∧ ∀ n, 1 ≤ n → m < 2 ^ n → width m ≤ n) ∧
  ∀ p : Params,
    (lastBit p).toNat = p.W - 1 ∧ (allWords p).toNat = p.C ∧ (oneWord p).toNat = 1 ∧
    (divReloadValue p).toNat = p.N - 1 ∧
    ∀ r : Regs p,
      r.countBit.bitCnt.toNat =
        (if r.bitCnt.toNat = 0 then 2 ^ width (p.W - 1) - 1 else r.bitCnt.toNat - 1) ∧
      r.countWord.wordCnt.toNat =
        (if r.wordCnt.toNat = 0 then 2 ^ width p.C - 1 else r.wordCnt.toNat - 1)

/-- R21 with R70, R72, R80, R103, R122 (the grouping of `init_pending` and the columns of `div_load` are
the spec's decisions D5 and D25, log entries 10 and 16): every derived signal is its definition. -/
def Obligations.DerivedSignals : Prop :=
  ∀ (p : Params) (r : Regs p) (i : Inputs p),
    (r.tick = true ↔ r.divCnt.toNat = 0) ∧
    (initPending r i = true ↔ (i.init = true ∨ r.initLatched = true) ∧ r.initialized = false) ∧
    (req r i = true ↔ i.start = true ∨ initPending r i = true) ∧
    (r.bitZero = true ↔ r.bitCnt.toNat = 0) ∧ (r.wordZero = true ↔ r.wordCnt.toNat = 0) ∧
    (divLoad r i = true ↔ (r.st = .idle ∧ req r i = true) ∨ r.st = .setup ∨ r.st = .hold ∨
      (r.st = .busyHigh ∧ i.busy = true ∧ r.wordCnt.toNat ≠ 0)) ∧
    (srLoad r i = true ↔ r.divCnt.toNat = 0 ∧ r.st = .idle ∧ req r i = true)

/-- R130 to R135 (`cs_n` in BUSY_HIGH and `sclk` outside SETUP are the spec's decisions D7 and D23, log
entry 11): the output table. -/
def Obligations.OutputTable : Prop :=
  ∀ (p : Params) (r : Regs p) (i : Inputs p) (u : List (Inputs p)) (c : Nat),
    State.outputs ⟨p, r, i, u, c⟩ =
      match r.st with
      | .idle =>
        { ready := !(i.start || initPending r i), initialized := r.initialized, sclk := false,
          csN := true, sdo := r.sr.getLsbD (p.C * p.W - 1) }
      | .setup =>
        { ready := false, initialized := r.initialized, sclk := true, csN := false,
          sdo := r.sr.getLsbD (p.C * p.W - 1) }
      | .hold | .delay =>
        { ready := false, initialized := r.initialized, sclk := false, csN := false,
          sdo := r.sr.getLsbD (p.C * p.W - 1) }
      | .busyLow | .busyHigh =>
        { ready := false, initialized := r.initialized, sclk := false, csN := true,
          sdo := r.sr.getLsbD (p.C * p.W - 1) }

/-- R134. `ready` is 1 exactly in IDLE with neither `start` nor an init request; with the divider frozen
(as in every reachable IDLE cycle, R27) a cycle without reset then executes IDLE_WAIT, and a `start`, or
before initialization an `init`, asserted in this very cycle would have been accepted in it. `opOf` is the
tick-gated operation of a cycle without reset. Not conversely: a request that is accepted lowers `ready`. -/
def Obligations.ReadyMeansAcceptedAtOnce : Prop :=
  ∀ (p : Params) (r : Regs p) (i : Inputs p),
    (ready r i = true ↔ r.st = .idle ∧ i.start = false ∧ initPending r i = false) ∧
    (ready r i = true → r.divCnt = 0 →
      opOf r i = .ok .idleWait ∧ opOf r { i with start := true } = .ok .startNormal ∧
      (r.initialized = false → opOf r { i with init := true } = .ok .startInit) ∧
      (r.initialized = true → ready r { i with init := true } = true))

/-- R40, item 2 (derived in the spec; D14): `sclk`, `cs_n`, `sdo` and `initialized` are functions of the
registers alone, and no output depends on `rst`, `busy` or `data` of the same cycle. -/
def Obligations.OutputsOfTheSameCycle : Prop :=
  ∀ (p : Params) (r : Regs p) (i j : Inputs p) (u v : List (Inputs p)) (c d : Nat),
    (State.outputs ⟨p, r, i, u, c⟩).sclk = (State.outputs ⟨p, r, j, v, d⟩).sclk ∧
    (State.outputs ⟨p, r, i, u, c⟩).csN = (State.outputs ⟨p, r, j, v, d⟩).csN ∧
    (State.outputs ⟨p, r, i, u, c⟩).sdo = (State.outputs ⟨p, r, j, v, d⟩).sdo ∧
    (State.outputs ⟨p, r, i, u, c⟩).initialized = (State.outputs ⟨p, r, j, v, d⟩).initialized ∧
    (i.start = j.start → i.init = j.init →
      State.outputs ⟨p, r, i, u, c⟩ = State.outputs ⟨p, r, j, v, d⟩)

/-! ## Reset and the invariant -/

/-- R22 (`st`, `sr`, `init_latched` by the spec's decision D10; the parameters and inputs of cycle 0 are
the model's, log entries 4 and 5): the registers after reset, and what they give in cycle 0. -/
def Obligations.ResetState : Prop :=
  State.reset.regs =
    { st := .idle, divCnt := 0, sr := 0, bitCnt := 0, wordCnt := 0, initLatched := false,
      initialized := false } ∧
  Sys2Proof.core.reset = State.reset ∧ State.reset.cycle = 0 ∧
  ∀ (p : Params) (i : Inputs p),
    (Regs.reset p).tick = true ∧ initPending (Regs.reset p) i = i.init ∧
    ready (Regs.reset p) i = !(i.start || i.init) ∧ (Regs.reset p).csN = true ∧
    (Regs.reset p).sclk = false ∧ (Regs.reset p).sdo = false

/-- The registers after reset satisfy the invariant, for all parameters. -/
def Obligations.ResetSatisfiesTheInvariant : Prop :=
  (∀ p : Params, (Regs.reset p).Inv) ∧ State.reset.regs.Inv

/-- Every cycle keeps the invariant, reset cycles included: the facts of R27 with what their proof needs of
the shift register (R107, R108). -/
def Obligations.EveryCycleKeepsTheInvariant : Prop :=
  ∀ s s' : State, s.regs.Inv → Sys2Proof.Machine.step s = .next s' → s'.regs.Inv

/-- The facts the spec derives in R27 hold in every cycle of every run from the reset registers, with any
inputs. -/
def Obligations.ReachableFactsInEveryRun : Prop :=
  ∀ (p : Params) (r : Nat → Regs p) (i : Nat → Inputs p),
    IsRun r i → r 0 = Regs.reset p → ∀ t, ReachableFacts (r t)

/-! ## What a cycle changes, and what it does not look at -/

/-- The per-register view the spec derives in R105 and R106, with the divider of R74 to R76 and the latch
of R120 and R121: every register after a cycle without reset, from the registers and inputs of the cycle. -/
def Obligations.PerRegisterView : Prop :=
  ∀ (p : Params) (r : Regs p) (i : Inputs p) (r' : Regs p),
    i.rst = false → StepsTo r i r' →
    r'.sr =
      (if r.tick ∧ r.st = .idle ∧ initPending r i then loadInit i.data
       else if r.tick ∧ r.st = .idle ∧ i.start then loadNormal i.data
       else if r.tick ∧ (r.st = .hold ∨ r.st = .delay) then shl1 r.sr
       else r.sr) ∧
    r'.bitCnt =
      (if r.tick ∧ r.st = .idle then lastBit p
       else if r.tick ∧ r.st = .hold then r.bitCnt - 1
       else if r.tick ∧ r.st = .busyHigh ∧ i.busy then lastBit p
       else r.bitCnt) ∧
    r'.wordCnt =
      (if r.tick ∧ r.st = .idle ∧ initPending r i then oneWord p
       else if r.tick ∧ r.st = .idle then allWords p
       else if r.tick ∧ r.st = .delay then r.wordCnt - 1
       else r.wordCnt) ∧
    r'.initialized =
      (if r.tick ∧ r.st = .busyHigh ∧ i.busy ∧ r.wordZero ∧ initPending r i then true
       else r.initialized) ∧
    r'.divCnt =
      (if ¬ r.tick then r.divCnt - 1 else if divLoad r i then divReloadValue p else 0) ∧
    r'.initLatched = (r.initLatched || i.init)

/-- The transition graph the spec derives in R96 is exact: a tick cycle without reset can go from one state
to another exactly along its edges, and a cycle without a tick stays. -/
def Obligations.TransitionGraph : Prop :=
  (∀ a b : FsmState,
    (∃ (p : Params) (r : Regs p) (i : Inputs p) (r' : Regs p),
      i.rst = false ∧ r.tick = true ∧ r.st = a ∧ StepsTo r i r' ∧ r'.st = b) ↔
    (a, b) ∈ [(FsmState.idle, FsmState.idle), (.idle, .setup), (.setup, .hold), (.setup, .delay),
      (.hold, .setup), (.delay, .busyLow), (.busyLow, .busyLow), (.busyLow, .busyHigh),
      (.busyHigh, .busyHigh), (.busyHigh, .setup), (.busyHigh, .idle)]) ∧
  ∀ (p : Params) (r : Regs p) (i : Inputs p) (r' : Regs p),
    i.rst = false → r.tick = false → StepsTo r i r' → r'.st = r.st

/-- R95 (derived in the spec): outside IDLE, and in IDLE with an init request pending, `start` has no
effect on any register. -/
def Obligations.StartIsIgnoredOutsideIdle : Prop :=
  ∀ (p : Params) (r : Regs p) (i : Inputs p) (b : Bool) (r₁ r₂ : Regs p),
    r.st ≠ .idle ∨ initPending r i = true →
    StepsTo r i r₁ → StepsTo r { i with start := b } r₂ → r₁ = r₂

/-- R43 with the spec's decision D17 (log entry 14): outside the cycle of the load pulse `data` has no
effect on any register, nor on any output of the cycle. -/
def Obligations.DataIsReadOnlyByTheLoad : Prop :=
  ∀ (p : Params) (r : Regs p) (i : Inputs p) (v : BitVec p.L) (r₁ r₂ : Regs p),
    srLoad r i = false → StepsTo r i r₁ → StepsTo r { i with data := v } r₂ →
    r₁ = r₂ ∧ ∀ u c, State.outputs ⟨p, r, i, u, c⟩ = State.outputs ⟨p, r, { i with data := v }, u, c⟩

/-- R172 (derived in the spec): `busy` has an effect in BUSY_LOW and BUSY_HIGH only. -/
def Obligations.BusyIsLookedAtOnlyInBusyStates : Prop :=
  ∀ (p : Params) (r : Regs p) (i : Inputs p) (b : Bool) (r₁ r₂ : Regs p),
    r.st ≠ .busyLow → r.st ≠ .busyHigh →
    StepsTo r i r₁ → StepsTo r { i with busy := b } r₂ → r₁ = r₂

/-- R125. After `initialized = 1` the input `init` has no effect on any output, on any register but
`init_latched`, nor on the choice of an operation; after RESET an init request is honoured again. -/
def Obligations.InitIsIgnoredAfterInitialization : Prop :=
  (∀ (p : Params) (r : Regs p) (i : Inputs p) (b : Bool) (r₁ r₂ : Regs p),
    r.initialized = true → StepsTo r i r₁ → StepsTo r { i with init := b } r₂ →
    r₂ = { r₁ with initLatched := r₂.initLatched } ∧
    opOf r { i with init := b } = opOf r i ∧
    ∀ u c, State.outputs ⟨p, r, i, u, c⟩ = State.outputs ⟨p, r, { i with init := b }, u, c⟩) ∧
  ∀ (p : Params) (r : Regs p) (i j : Inputs p) (r' : Regs p),
    i.rst = true → StepsTo r i r' →
    r'.initLatched = false ∧ r'.initialized = false ∧ (j.init = true → opOf r' j = .ok .startInit)

/-- R16, R17. Both init flags are sticky until reset; `initialized` changes in no cycle but one that
executes BUSYHIGH_DONE_INIT. -/
def Obligations.InitFlagsAreSticky : Prop :=
  ∀ (p : Params) (r : Regs p) (i : Inputs p) (r' : Regs p),
    i.rst = false → StepsTo r i r' →
    r'.initLatched = (r.initLatched || i.init) ∧
    (r.initialized = true → r'.initialized = true) ∧
    (r'.initialized ≠ r.initialized ↔ opOf r i = .ok .busyhighDoneInit)

/-- R93, last corner case: BUSYHIGH_DONE_INIT is executed at most once between two resets. -/
def Obligations.InitializedIsSetAtMostOnce : Prop :=
  ∀ (p : Params) (r : Nat → Regs p) (i : Nat → Inputs p) (t n : Nat),
    IsRun r i → NoReset i t n → opOf (r t) (i t) = .ok .busyhighDoneInit →
    ∀ k, 1 ≤ k → k ≤ n → opOf (r (t + k)) (i (t + k)) ≠ .ok .busyhighDoneInit

/-- R41 and R137 (derived in the spec): across the end of a cycle without reset the serial pins change only
where these rules say, operation by operation; `sdo` never changes where `sclk` falls. -/
def Obligations.EdgesOfTheSerialPins : Prop :=
  ∀ (p : Params) (r : Regs p) (i : Inputs p) (r' : Regs p) (op : Instr),
    i.rst = false → StepsTo r i r' → opOf r i = .ok op →
    (r'.sdo ≠ r.sdo → op ∈ [Instr.startNormal, .startInit, .holdShift, .delayEnd]) ∧
    ((r.sclk = true ∧ r'.sclk = false) ↔ op ∈ [Instr.setupNext, .setupLast]) ∧
    ((r.sclk = false ∧ r'.sclk = true) ↔
      op ∈ [Instr.startNormal, .startInit, .holdShift, .busyhighNext]) ∧
    ((r.csN = true ∧ r'.csN = false) ↔ op ∈ [Instr.startNormal, .startInit, .busyhighNext]) ∧
    ((r.csN = false ∧ r'.csN = true) ↔ op = .delayEnd)

/-- R180 and R178 (derived in the spec): the cycle after the end of a transfer is an IDLE tick cycle, and a
request made in it is accepted in it. -/
def Obligations.RequestAfterATransferIsAccepted : Prop :=
  ∀ (p : Params) (r : Regs p) (i : Inputs p) (r' : Regs p) (j : Inputs p),
    i.rst = false → opOf r i = .ok .busyhighDone ∨ opOf r i = .ok .busyhighDoneInit →
    StepsTo r i r' →
    r'.st = .idle ∧ r'.tick = true ∧
    (initPending r' j = true → opOf r' j = .ok .startInit) ∧
    (initPending r' j = false → j.start = true → opOf r' j = .ok .startNormal) ∧
    (ready r' j = true → opOf r' j = .ok .idleWait)

/-! ## Runs -/

/-- R71 (its exact form is derived in the spec): a tick with `div_load = 1` is followed by exactly `N`
cycles to the next tick, whatever the state machine does; a tick without it by a tick. -/
def Obligations.OneTickPerPeriod : Prop :=
  ∀ (p : Params) (r : Nat → Regs p) (i : Nat → Inputs p) (t : Nat),
    IsRun r i → NoReset i t p.N → (r t).tick = true →
    (divLoad (r t) (i t) = true →
      ∀ k, 1 ≤ k → k ≤ p.N → (r (t + k)).divCnt.toNat = p.N - k ∧ ((r (t + k)).tick = true ↔ k = p.N)) ∧
    (divLoad (r t) (i t) = false → (r (t + 1)).tick = true)

/-- R142. A stall: while `busy` stays 1 in BUSY_LOW, or 0 in BUSY_HIGH, the core repeats its wait cycle
with every register but the latch unchanged, and the outputs stay `cs_n = 1`, `sclk = 0`, `ready = 0`. -/
def Obligations.StallHasNoTimeout : Prop :=
  ∀ (p : Params) (r : Nat → Regs p) (i : Nat → Inputs p) (t n : Nat),
    IsRun r i → NoReset i t n → (r t).divCnt = 0 →
    ((r t).st = .busyLow ∧ ∀ k < n, (i (t + k)).busy = true) ∨
      ((r t).st = .busyHigh ∧ ∀ k < n, (i (t + k)).busy = false) →
    ∀ k ≤ n,
      r (t + k) = { r t with initLatched := (r t).initLatched || initSeen i t k } ∧
      (r (t + k)).csN = true ∧ (r (t + k)).sclk = false ∧
      ready (r (t + k)) (i (t + k)) = false ∧
      (k < n → opOf (r (t + k)) (i (t + k)) =
        .ok (if (r t).st = .busyLow then .busylowWait else .busyhighWait))

/-- R77, R107, R183 (derived in the spec): one word, cycle by cycle. From the first SETUP cycle of a word
the registers of each of its `2*W*N` cycles are these: bit `b = k / (2*N)` is on the line in cycle `k`,
SETUP in the first `N` cycles of the bit, then HOLD, or DELAY after the last bit; then BUSY_LOW. -/
def Obligations.WordCycleByCycle : Prop :=
  ∀ (p : Params) (r : Nat → Regs p) (i : Nat → Inputs p) (t : Nat),
    IsRun r i → NoReset i t (2 * p.W * p.N) →
    (r t).st = .setup → (r t).divCnt = BitVec.ofNat _ (p.N - 1) →
    (r t).bitCnt = BitVec.ofNat _ (p.W - 1) →
    (∀ k < 2 * p.W * p.N,
      r (t + k) =
        { st := if k % (2 * p.N) < p.N then .setup
                else if k / (2 * p.N) < p.W - 1 then .hold else .delay
          divCnt := BitVec.ofNat _ (p.N - 1 - k % p.N)
          sr := (r t).sr <<< (k / (2 * p.N))
          bitCnt := BitVec.ofNat _ (p.W - 1 - k / (2 * p.N))
          wordCnt := (r t).wordCnt
          initLatched := (r t).initLatched || initSeen i t k
          initialized := (r t).initialized }) ∧
    r (t + 2 * p.W * p.N) =
      { st := .busyLow, divCnt := 0, sr := (r t).sr <<< p.W, bitCnt := 0,
        wordCnt := (r t).wordCnt - 1,
        initLatched := (r t).initLatched || initSeen i t (2 * p.W * p.N),
        initialized := (r t).initialized }

/-- R181, R107, R108, R176 (derived in the spec): a normal transfer, its device answering word `j` after
`a j` and `b j` cycles. Word `j` begins at its computed cycle with the image shifted by `j*W`; the core is
in no IDLE cycle before `t0 + 1 + sum (2*W*N + a j + b j)` and is in IDLE there, with `sr = 0`; an `init`
seen during the transfer ends in `initialized = 1` although no init word was sent. -/
def Obligations.NormalTransferTakesItsCycles : Prop :=
  ∀ (p : Params) (r : Nat → Regs p) (i : Nat → Inputs p) (t : Nat) (a b : Nat → Nat),
    IsRun r i → NoReset i t (1 + wordStart p a b p.C) →
    (r t).st = .idle → (r t).divCnt = 0 → (i t).start = true → initPending (r t) (i t) = false →
    (∀ j < p.C, DeviceAnswers i (t + 1 + wordStart p a b j) (a j) (b j)) →
    (∀ j < p.C, r (t + 1 + wordStart p a b j) =
      { st := .setup, divCnt := BitVec.ofNat _ (p.N - 1), sr := (i t).data <<< (j * p.W),
        bitCnt := BitVec.ofNat _ (p.W - 1), wordCnt := BitVec.ofNat _ (p.C - j),
        initLatched := (r t).initLatched || initSeen i t (1 + wordStart p a b j),
        initialized := (r t).initialized }) ∧
    (∀ k < wordStart p a b p.C, (r (t + 1 + k)).st ≠ .idle) ∧
    r (t + 1 + wordStart p a b p.C) =
      { st := .idle, divCnt := 0, sr := 0, bitCnt := BitVec.ofNat _ (p.W - 1), wordCnt := 0,
        initLatched := (r t).initLatched || initSeen i t (1 + wordStart p a b p.C),
        initialized := (r t).initialized ||
          ((r t).initLatched || initSeen i t (1 + wordStart p a b p.C)) }

/-- R32 and R109 (derived in the spec), with the transfer of R181: a device that samples on the falling
edges of `sclk` gets exactly the `L` bits of the loaded `data`, the most significant first, in `C` frames
of `cs_n`. -/
def Obligations.NormalTransferSendsTheDataMsbFirst : Prop :=
  ∀ (p : Params) (r : Nat → Regs p) (i : Nat → Inputs p) (t : Nat) (a b : Nat → Nat),
    IsRun r i → NoReset i t (1 + wordStart p a b p.C) →
    (r t).st = .idle → (r t).divCnt = 0 → (i t).start = true → initPending (r t) (i t) = false →
    (∀ j < p.C, DeviceAnswers i (t + 1 + wordStart p a b j) (a j) (b j)) →
    sampled r t (1 + wordStart p a b p.C) =
      (List.range p.L).map (fun n => (i t).data.getLsbD (p.L - 1 - n)) ∧
    framesOpened r t (1 + wordStart p a b p.C) = p.C

/-- R124 and R181 (derived in the spec): an init transfer is one word; it ends in IDLE after
`1 + 2*W*N + a + b` cycles with `initialized = 1` and `init_latched = 1`, no init request being pending
ever after, whatever `start` was. -/
def Obligations.InitTransferSetsInitialized : Prop :=
  ∀ (p : Params) (r : Nat → Regs p) (i : Nat → Inputs p) (t a b : Nat),
    IsRun r i → NoReset i t (1 + (2 * p.W * p.N + a + b)) →
    (r t).st = .idle → (r t).divCnt = 0 → initPending (r t) (i t) = true →
    DeviceAnswers i (t + 1) a b →
    r (t + 1) =
      { st := .setup, divCnt := BitVec.ofNat _ (p.N - 1), sr := loadInit (i t).data,
        bitCnt := BitVec.ofNat _ (p.W - 1), wordCnt := BitVec.ofNat _ 1, initLatched := true,
        initialized := false } ∧
    (∀ k < 2 * p.W * p.N + a + b,
      (r (t + 1 + k)).st ≠ .idle ∧ (r (t + 1 + k)).initialized = false) ∧
    r (t + 1 + (2 * p.W * p.N + a + b)) =
      { st := .idle, divCnt := 0, sr := 0, bitCnt := BitVec.ofNat _ (p.W - 1), wordCnt := 0,
        initLatched := true, initialized := true }

/-- R33 and R109 (derived in the spec), with the transfer of R181: the device gets the `W` bits of segment
0 of `data`, the most significant first, in one frame; no other bit of `data` is sent. -/
def Obligations.InitTransferSendsSegmentZero : Prop :=
  ∀ (p : Params) (r : Nat → Regs p) (i : Nat → Inputs p) (t a b : Nat),
    IsRun r i → NoReset i t (1 + (2 * p.W * p.N + a + b)) →
    (r t).st = .idle → (r t).divCnt = 0 → initPending (r t) (i t) = true →
    DeviceAnswers i (t + 1) a b →
    sampled r t (1 + (2 * p.W * p.N + a + b)) =
      (List.range p.W).map (fun n => (seg 0 (i t).data).getLsbD (p.W - 1 - n)) ∧
    framesOpened r t (1 + (2 * p.W * p.N + a + b)) = 1

/-- R61 (derived in the spec): the tick-gated operations of a transfer, FSM_HOLD left out, are those of the
pseudo-operations: NORMAL_XFER for a normal transfer at whose end no init request is pending, INIT_XFER
for an init transfer, with one wait operation fewer than the cycles in each polled state. -/
def Obligations.TransferRunsItsOperations : Prop :=
  ∀ (p : Params) (r : Nat → Regs p) (i : Nat → Inputs p) (t : Nat) (a b : Nat → Nat),
    IsRun r i → (r t).st = .idle → (r t).divCnt = 0 →
    (initPending (r t) (i t) = false → (i t).start = true →
      NoReset i t (1 + wordStart p a b p.C) →
      (∀ j < p.C, DeviceAnswers i (t + 1 + wordStart p a b j) (a j) (b j)) →
      initPending (r (t + wordStart p a b p.C)) (i (t + wordStart p a b p.C)) = false →
      opsExecuted r i t (1 + wordStart p a b p.C) =
        normalXfer p.W ((List.range p.C).map fun j => (a j - 1, b j - 1))) ∧
    (initPending (r t) (i t) = true → NoReset i t (1 + wordStart p a b 1) →
      DeviceAnswers i (t + 1) (a 0) (b 0) →
      opsExecuted r i t (1 + wordStart p a b 1) = initXfer p.W (a 0 - 1) (b 0 - 1))

/-- With the contract of the device (R171, the spec's open hypothesis `BusyLive`, D22), put as: from every
cycle of a visit on, the visit has a cycle with the level waited for; and without reset, the core returns
to IDLE again and again, from whatever registers it is in. -/
def Obligations.TransfersEndIfTheDeviceAnswers : Prop :=
  ∀ (p : Params) (r : Nat → Regs p) (i : Nat → Inputs p),
    IsRun r i → (∀ t, (i t).rst = false) → BusyLive r i → ∀ t, ∃ n, (r (t + n)).st = .idle
end

