-- ==== Sys2Proof/Laws/State.lean ====
section
/-! SUPPORT. One lemma per field per update, true by rfl, and what the end of a cycle does. -/

namespace Sys2Proof.Machine

variable {p : Params} (r : Regs p)

@[simp] theorem Regs.goTo_st (t : FsmState) : (r.goTo t).st = t := rfl
@[simp] theorem Regs.goTo_divCnt (t : FsmState) : (r.goTo t).divCnt = r.divCnt := rfl
@[simp] theorem Regs.goTo_sr (t : FsmState) : (r.goTo t).sr = r.sr := rfl
@[simp] theorem Regs.goTo_bitCnt (t : FsmState) : (r.goTo t).bitCnt = r.bitCnt := rfl
@[simp] theorem Regs.goTo_wordCnt (t : FsmState) : (r.goTo t).wordCnt = r.wordCnt := rfl
@[simp] theorem Regs.goTo_initLatched (t : FsmState) : (r.goTo t).initLatched = r.initLatched := rfl
@[simp] theorem Regs.goTo_initialized (t : FsmState) : (r.goTo t).initialized = r.initialized := rfl

@[simp] theorem Regs.setDiv_st (v : BitVec p.divWidth) : (r.setDiv v).st = r.st := rfl
@[simp] theorem Regs.setDiv_divCnt (v : BitVec p.divWidth) : (r.setDiv v).divCnt = v := rfl
@[simp] theorem Regs.setDiv_sr (v : BitVec p.divWidth) : (r.setDiv v).sr = r.sr := rfl
@[simp] theorem Regs.setDiv_bitCnt (v : BitVec p.divWidth) : (r.setDiv v).bitCnt = r.bitCnt := rfl
@[simp] theorem Regs.setDiv_wordCnt (v : BitVec p.divWidth) : (r.setDiv v).wordCnt = r.wordCnt := rfl
@[simp] theorem Regs.setDiv_initLatched (v : BitVec p.divWidth) : (r.setDiv v).initLatched = r.initLatched := rfl
@[simp] theorem Regs.setDiv_initialized (v : BitVec p.divWidth) : (r.setDiv v).initialized = r.initialized := rfl

@[simp] theorem Regs.countDiv_st : (r.countDiv).st = r.st := rfl
@[simp] theorem Regs.countDiv_divCnt : (r.countDiv).divCnt = r.divCnt - 1 := rfl
@[simp] theorem Regs.countDiv_sr : (r.countDiv).sr = r.sr := rfl
@[simp] theorem Regs.countDiv_bitCnt : (r.countDiv).bitCnt = r.bitCnt := rfl
@[simp] theorem Regs.countDiv_wordCnt : (r.countDiv).wordCnt = r.wordCnt := rfl
@[simp] theorem Regs.countDiv_initLatched : (r.countDiv).initLatched = r.initLatched := rfl
@[simp] theorem Regs.countDiv_initialized : (r.countDiv).initialized = r.initialized := rfl

@[simp] theorem Regs.loadSr_st (v : BitVec p.L) : (r.loadSr v).st = r.st := rfl
@[simp] theorem Regs.loadSr_divCnt (v : BitVec p.L) : (r.loadSr v).divCnt = r.divCnt := rfl
@[simp] theorem Regs.loadSr_sr (v : BitVec p.L) : (r.loadSr v).sr = v := rfl
@[simp] theorem Regs.loadSr_bitCnt (v : BitVec p.L) : (r.loadSr v).bitCnt = r.bitCnt := rfl
@[simp] theorem Regs.loadSr_wordCnt (v : BitVec p.L) : (r.loadSr v).wordCnt = r.wordCnt := rfl
@[simp] theorem Regs.loadSr_initLatched (v : BitVec p.L) : (r.loadSr v).initLatched = r.initLatched := rfl
@[simp] theorem Regs.loadSr_initialized (v : BitVec p.L) : (r.loadSr v).initialized = r.initialized := rfl

@[simp] theorem Regs.shiftSr_st : (r.shiftSr).st = r.st := rfl
@[simp] theorem Regs.shiftSr_divCnt : (r.shiftSr).divCnt = r.divCnt := rfl
@[simp] theorem Regs.shiftSr_sr : (r.shiftSr).sr = shl1 r.sr := rfl
@[simp] theorem Regs.shiftSr_bitCnt : (r.shiftSr).bitCnt = r.bitCnt := rfl
@[simp] theorem Regs.shiftSr_wordCnt : (r.shiftSr).wordCnt = r.wordCnt := rfl
@[simp] theorem Regs.shiftSr_initLatched : (r.shiftSr).initLatched = r.initLatched := rfl
@[simp] theorem Regs.shiftSr_initialized : (r.shiftSr).initialized = r.initialized := rfl

@[simp] theorem Regs.reloadBits_st : (r.reloadBits).st = r.st := rfl
@[simp] theorem Regs.reloadBits_divCnt : (r.reloadBits).divCnt = r.divCnt := rfl
@[simp] theorem Regs.reloadBits_sr : (r.reloadBits).sr = r.sr := rfl
@[simp] theorem Regs.reloadBits_bitCnt : (r.reloadBits).bitCnt = lastBit p := rfl
@[simp] theorem Regs.reloadBits_wordCnt : (r.reloadBits).wordCnt = r.wordCnt := rfl
@[simp] theorem Regs.reloadBits_initLatched : (r.reloadBits).initLatched = r.initLatched := rfl
@[simp] theorem Regs.reloadBits_initialized : (r.reloadBits).initialized = r.initialized := rfl

@[simp] theorem Regs.countBit_st : (r.countBit).st = r.st := rfl
@[simp] theorem Regs.countBit_divCnt : (r.countBit).divCnt = r.divCnt := rfl
@[simp] theorem Regs.countBit_sr : (r.countBit).sr = r.sr := rfl
@[simp] theorem Regs.countBit_bitCnt : (r.countBit).bitCnt = r.bitCnt - 1 := rfl
@[simp] theorem Regs.countBit_wordCnt : (r.countBit).wordCnt = r.wordCnt := rfl
@[simp] theorem Regs.countBit_initLatched : (r.countBit).initLatched = r.initLatched := rfl
@[simp] theorem Regs.countBit_initialized : (r.countBit).initialized = r.initialized := rfl

@[simp] theorem Regs.setWords_st (v : BitVec p.wordWidth) : (r.setWords v).st = r.st := rfl
@[simp] theorem Regs.setWords_divCnt (v : BitVec p.wordWidth) : (r.setWords v).divCnt = r.divCnt := rfl
@[simp] theorem Regs.setWords_sr (v : BitVec p.wordWidth) : (r.setWords v).sr = r.sr := rfl
@[simp] theorem Regs.setWords_bitCnt (v : BitVec p.wordWidth) : (r.setWords v).bitCnt = r.bitCnt := rfl
@[simp] theorem Regs.setWords_wordCnt (v : BitVec p.wordWidth) : (r.setWords v).wordCnt = v := rfl
@[simp] theorem Regs.setWords_initLatched (v : BitVec p.wordWidth) : (r.setWords v).initLatched = r.initLatched := rfl
@[simp] theorem Regs.setWords_initialized (v : BitVec p.wordWidth) : (r.setWords v).initialized = r.initialized := rfl

@[simp] theorem Regs.countWord_st : (r.countWord).st = r.st := rfl
@[simp] theorem Regs.countWord_divCnt : (r.countWord).divCnt = r.divCnt := rfl
@[simp] theorem Regs.countWord_sr : (r.countWord).sr = r.sr := rfl
@[simp] theorem Regs.countWord_bitCnt : (r.countWord).bitCnt = r.bitCnt := rfl
@[simp] theorem Regs.countWord_wordCnt : (r.countWord).wordCnt = r.wordCnt - 1 := rfl
@[simp] theorem Regs.countWord_initLatched : (r.countWord).initLatched = r.initLatched := rfl
@[simp] theorem Regs.countWord_initialized : (r.countWord).initialized = r.initialized := rfl

@[simp] theorem Regs.latchInit_st : (r.latchInit).st = r.st := rfl
@[simp] theorem Regs.latchInit_divCnt : (r.latchInit).divCnt = r.divCnt := rfl
@[simp] theorem Regs.latchInit_sr : (r.latchInit).sr = r.sr := rfl
@[simp] theorem Regs.latchInit_bitCnt : (r.latchInit).bitCnt = r.bitCnt := rfl
@[simp] theorem Regs.latchInit_wordCnt : (r.latchInit).wordCnt = r.wordCnt := rfl
@[simp] theorem Regs.latchInit_initLatched : (r.latchInit).initLatched = true := rfl
@[simp] theorem Regs.latchInit_initialized : (r.latchInit).initialized = r.initialized := rfl

@[simp] theorem Regs.markInitialized_st : (r.markInitialized).st = r.st := rfl
@[simp] theorem Regs.markInitialized_divCnt : (r.markInitialized).divCnt = r.divCnt := rfl
@[simp] theorem Regs.markInitialized_sr : (r.markInitialized).sr = r.sr := rfl
@[simp] theorem Regs.markInitialized_bitCnt : (r.markInitialized).bitCnt = r.bitCnt := rfl
@[simp] theorem Regs.markInitialized_wordCnt : (r.markInitialized).wordCnt = r.wordCnt := rfl
@[simp] theorem Regs.markInitialized_initLatched : (r.markInitialized).initLatched = r.initLatched := rfl
@[simp] theorem Regs.markInitialized_initialized : (r.markInitialized).initialized = true := rfl

@[simp] theorem Regs.reset_st (p : Params) : (Regs.reset p).st = .idle := rfl
@[simp] theorem Regs.reset_divCnt (p : Params) : (Regs.reset p).divCnt = 0 := rfl
@[simp] theorem Regs.reset_sr (p : Params) : (Regs.reset p).sr = 0 := rfl
@[simp] theorem Regs.reset_bitCnt (p : Params) : (Regs.reset p).bitCnt = 0 := rfl
@[simp] theorem Regs.reset_wordCnt (p : Params) : (Regs.reset p).wordCnt = 0 := rfl
@[simp] theorem Regs.reset_initLatched (p : Params) : (Regs.reset p).initLatched = false := rfl
@[simp] theorem Regs.reset_initialized (p : Params) : (Regs.reset p).initialized = false := rfl

variable (s : State) (f : Regs s.params → Regs s.params)

@[simp] theorem State.updRegs_params : (s.updRegs f).params = s.params := rfl
@[simp] theorem State.updRegs_regs : (s.updRegs f).regs = f s.regs := rfl
@[simp] theorem State.updRegs_inputs : (s.updRegs f).inputs = s.inputs := rfl
@[simp] theorem State.updRegs_upcoming : (s.updRegs f).upcoming = s.upcoming := rfl
@[simp] theorem State.updRegs_cycle : (s.updRegs f).cycle = s.cycle := rfl

/-- Everything the end of a cycle does where the next inputs are given. -/
theorem State.clockEdge_given (p : Params) (r : Regs p) (i j : Inputs p) (u : List (Inputs p)) (c : Nat) :
    State.clockEdge ⟨p, r, i, j :: u, c⟩ = ⟨p, r, j, u, c + 1⟩ := rfl

/-- Everything the end of a cycle does where they are not: they are the free value. -/
theorem State.clockEdge_free (p : Params) (r : Regs p) (i : Inputs p) (c : Nat) :
    State.clockEdge ⟨p, r, i, [], c⟩ = ⟨p, r, Config.envInputs p (c + 1), [], c + 1⟩ := rfl

/-- The end of a cycle changes neither parameters nor registers. -/
theorem State.clockEdge_keeps (p : Params) (r : Regs p) (i : Inputs p) (u : List (Inputs p)) (c : Nat) :
    ∃ i' u', State.clockEdge ⟨p, r, i, u, c⟩ = ⟨p, r, i', u', c + 1⟩ := by
  cases u with
  | nil => exact ⟨_, _, rfl⟩
  | cons j rest => exact ⟨_, _, rfl⟩

end Sys2Proof.Machine
end

