-- ==== Sys2Proof/Laws/Exec.lean ====
section
/-! SUPPORT. What executing one operation does, said once for all twenty: the registers it leaves. -/

namespace Sys2Proof.Machine

variable {p : Params}

/-- The registers an operation leaves. -/
def opRegs (op : Instr) (r : Regs p) (i : Inputs p) : Regs p :=
  match op with
  | .fsmHold => r
  | .idleWait => { r with st := .idle, bitCnt := lastBit p, wordCnt := allWords p }
  | .startNormal =>
    { r with st := .setup, sr := i.data, bitCnt := lastBit p, wordCnt := allWords p }
  | .startInit =>
    { r with st := .setup, sr := loadInit i.data, bitCnt := lastBit p, wordCnt := oneWord p }
  | .setupNext => { r with st := .hold }
  | .setupLast => { r with st := .delay }
  | .holdShift => { r with st := .setup, bitCnt := r.bitCnt - 1, sr := shl1 r.sr }
  | .delayEnd => { r with st := .busyLow, wordCnt := r.wordCnt - 1, sr := shl1 r.sr }
  | .busylowWait => { r with st := .busyLow }
  | .busylowAck => { r with st := .busyHigh }
  | .busyhighWait => { r with st := .busyHigh }
  | .busyhighNext => { r with st := .setup, bitCnt := lastBit p }
  | .busyhighDone => { r with st := .idle, bitCnt := lastBit p }
  | .busyhighDoneInit => { r with st := .idle, bitCnt := lastBit p, initialized := true }
  | .divCount => { r with divCnt := r.divCnt - 1 }
  | .divReload => { r with divCnt := divReloadValue p }
  | .divFreeze => r
  | .latchKeep => r
  | .latchSet => { r with initLatched := true }
  | .reset => Regs.reset p

/-- Every operation answers a next state, and changes only registers. -/
theorem exec_eq (op : Instr) (p : Params) (r : Regs p) (i : Inputs p) (u : List (Inputs p)) (c : Nat) :
    exec op ⟨p, r, i, u, c⟩ = .next ⟨p, opRegs op r i, i, u, c⟩ := by
  cases op <;> rfl

end Sys2Proof.Machine
end

