-- ==== Sys2Proof/Laws/Fetch.lean ====
section
/-! SUPPORT. What the decoder answers for the selector words a cycle builds. -/

namespace Sys2Proof.Machine

/-- The operation a format T word selects, from the fields the word is packed from. -/
theorem decodeT_packT (tick : Bool) (st : FsmState) (start ip busy bz wz : Bool) :
    decodeT (packT tick st start ip busy bz wz) = .ok
      (if tick then
        match st with
        | .idle => if ip then .startInit else if start then .startNormal else .idleWait
        | .setup => if bz then .setupLast else .setupNext
        | .hold => .holdShift
        | .delay => .delayEnd
        | .busyLow => if busy then .busylowWait else .busylowAck
        | .busyHigh =>
          if busy then
            if wz then if ip then .busyhighDoneInit else .busyhighDone else .busyhighNext
          else .busyhighWait
      else .fsmHold) := by
  cases st <;> cases tick <;> cases start <;> cases ip <;> cases busy <;> cases bz <;> cases wz <;> rfl

/-- The divider operation a format D word selects, from its two bits. -/
theorem decodeD_pack (tick load : Bool) :
    decodeD (BitVec.ofBool tick ++ BitVec.ofBool load) =
      if tick then if load then .divReload else .divFreeze else .divCount := by
  cases tick <;> cases load <;> rfl

/-- The latch operation a format L word selects. -/
theorem decodeL_pack (init : Bool) :
    decodeL (BitVec.ofBool init) = if init then .latchSet else .latchKeep := by
  cases init <;> rfl

/-- A format R word selects RESET exactly where its bit is 1. -/
theorem decodeR_pack (rst : Bool) :
    decodeR (BitVec.ofBool rst) = if rst then .ok .reset else .error .noReset := by
  cases rst <;> rfl

/-- The tick-gated operation of a cycle without reset. -/
def tickOp {p : Params} (r : Regs p) (i : Inputs p) : Instr :=
  if r.tick then
    match r.st with
    | .idle => if initPending r i then .startInit else if i.start then .startNormal else .idleWait
    | .setup => if r.bitZero then .setupLast else .setupNext
    | .hold => .holdShift
    | .delay => .delayEnd
    | .busyLow => if i.busy then .busylowWait else .busylowAck
    | .busyHigh =>
      if i.busy then
        if r.wordZero then if initPending r i then .busyhighDoneInit else .busyhighDone
        else .busyhighNext
      else .busyhighWait
  else .fsmHold

/-- The divider operation of a cycle without reset. -/
def divOp {p : Params} (r : Regs p) (i : Inputs p) : Instr :=
  if r.tick then if divLoad r i then .divReload else .divFreeze else .divCount

/-- The latch operation of a cycle without reset. -/
def latchOp {p : Params} (i : Inputs p) : Instr := if i.init then .latchSet else .latchKeep

theorem decodeT_selT (s : State) : decodeT s.selT = .ok (tickOp s.regs s.inputs) := by
  simp only [State.selT, decodeT_packT]; rfl

/-- A cycle with `rst = 1` executes RESET alone (rule R54). -/
theorem fetch_reset (s : State) (h : s.inputs.rst = true) : s.fetch = .ok [.reset] := by
  simp only [State.fetch, decode, State.selR, decodeR_pack, h]; rfl

/-- A cycle with `rst = 0` executes one operation of each of the other formats (rule R54). -/
theorem fetch_ops (s : State) (h : s.inputs.rst = false) :
    s.fetch = .ok [tickOp s.regs s.inputs, divOp s.regs s.inputs, latchOp s.inputs] := by
  simp only [State.fetch, decode, State.selR, State.selD, State.selL, decodeR_pack, h, decodeT_selT,
    decodeD_pack, decodeL_pack]
  rfl

end Sys2Proof.Machine
end

