-- ==== Sys2Proof/Laws/Step.lean ====
section
/-! SUPPORT. What one step does, said once: the registers after a cycle from the registers before it. -/

namespace Sys2Proof.Machine

variable {p : Params}

/-- The value of `div_cnt` after a cycle without reset. -/
def divNext (r : Regs p) (i : Inputs p) : BitVec p.divWidth :=
  if r.tick then if divLoad r i then divReloadValue p else r.divCnt else r.divCnt - 1

/-- The registers after a cycle. -/
def nextRegs (r : Regs p) (i : Inputs p) : Regs p :=
  if i.rst then Regs.reset p
  else
    { opRegs (tickOp r i) r i with
      divCnt := divNext r i, initLatched := r.initLatched || i.init }

/-- The latch operation of a cycle writes `init_latched` alone. -/
theorem opRegs_latchOp (x : Regs p) (i : Inputs p) :
    opRegs (latchOp i) x i = { x with initLatched := x.initLatched || i.init } := by
  cases h : i.init <;> simp [latchOp, h, opRegs]

/-- The divider operation of a cycle writes `div_cnt` alone. -/
theorem opRegs_divOp (r x : Regs p) (i : Inputs p) (h : x.divCnt = r.divCnt) :
    opRegs (divOp r i) x i = { x with divCnt := divNext r i } := by
  cases ht : r.tick <;> cases hl : divLoad r i <;> simp [divOp, divNext, ht, hl, opRegs, h]
  rw [← h]

/-- The tick-gated operation of a cycle writes neither `div_cnt` nor `init_latched`. -/
theorem opRegs_tickOp_keeps (r : Regs p) (i : Inputs p) :
    (opRegs (tickOp r i) r i).divCnt = r.divCnt ∧
      (opRegs (tickOp r i) r i).initLatched = r.initLatched := by
  unfold tickOp
  split
  · split <;> (repeat' split) <;> exact ⟨rfl, rfl⟩
  · exact ⟨rfl, rfl⟩

/-- Everything a step does: the registers of the next cycle, and the end of the cycle. -/
theorem step_eq (p : Params) (r : Regs p) (i : Inputs p) (u : List (Inputs p)) (c : Nat) :
    step ⟨p, r, i, u, c⟩ = .next (State.clockEdge ⟨p, nextRegs r i, i, u, c⟩) := by
  unfold step runCycle nextRegs
  cases h : i.rst with
  | true =>
    rw [fetch_reset _ h]
    simp [runOps, exec_eq, opRegs]
  | false =>
    rw [fetch_ops _ h]
    obtain ⟨hd, hl⟩ := opRegs_tickOp_keeps r i
    simp [runOps, exec_eq, opRegs_divOp _ _ _ hd, opRegs_latchOp, hl]

/-- One cycle takes registers to exactly one result. -/
theorem stepsTo_iff (r : Regs p) (i : Inputs p) (r' : Regs p) : StepsTo r i r' ↔ r' = nextRegs r i := by
  constructor
  · rintro ⟨u, c, i', u', c', h⟩
    rw [step_eq] at h
    obtain ⟨j, v, hk⟩ := State.clockEdge_keeps p (nextRegs r i) i u c
    rw [hk] at h
    cases h; rfl
  · rintro rfl
    obtain ⟨j, v, hk⟩ := State.clockEdge_keeps p (nextRegs r i) i [] 0
    exact ⟨[], 0, j, v, 1, by rw [step_eq, hk]⟩

/-- A run is the iteration of the registers' next value. -/
theorem isRun_iff (r : Nat → Regs p) (i : Nat → Inputs p) :
    IsRun r i ↔ ∀ t, r (t + 1) = nextRegs (r t) (i t) :=
  forall_congr' fun _ => stepsTo_iff _ _ _

end Sys2Proof.Machine
end

