-- ==== Sys2Proof/Laws/Values.lean ====
section
/-! SUPPORT. Arithmetic of the values: what a width holds, counting down, where the bits of a load image
come from. -/

namespace Sys2Proof

/-- A width holds the maximum it is the width of. -/
theorem lt_two_pow_width (m : Nat) : m < 2 ^ width m := by
  unfold width
  split
  · omega
  · exact Nat.lt_log2_self

/-- No register has width 0. -/
theorem one_le_width (m : Nat) : 1 ≤ width m := by
  unfold width
  split <;> omega

/-- A constant within its maximum is the number it is written as. -/
theorem toNat_ofNat_width {m k : Nat} (h : k ≤ m) : (BitVec.ofNat (width m) k).toNat = k := by
  rw [BitVec.toNat_ofNat]
  exact Nat.mod_eq_of_lt (lt_of_le_of_lt h (lt_two_pow_width m))

/-- A constant within its maximum is zero only where it is written 0. -/
theorem ofNat_width_eq_zero_iff {m k : Nat} (h : k ≤ m) : BitVec.ofNat (width m) k = 0 ↔ k = 0 := by
  rw [← BitVec.toNat_inj, toNat_ofNat_width h]
  simp

/-- A bit vector that is not zero is at least 1. -/
theorem one_le_toNat {n : Nat} {x : BitVec n} (h : x ≠ 0) : 1 ≤ x.toNat := by
  by_contra hc
  exact h (BitVec.eq_of_toNat_eq (by simp; omega))

/-- Counting down from at least 1 does not underflow. -/
theorem toNat_sub_one {n : Nat} (x : BitVec n) (h : 1 ≤ x.toNat) : (x - 1).toNat = x.toNat - 1 := by
  have hx := x.isLt
  have hn : 0 < n := by
    rcases n with _ | n
    · simp at hx; omega
    · omega
  have h1 : (1#n).toNat = 1 := by simp; omega
  rw [BitVec.toNat_sub, show (1 : BitVec n) = 1#n from rfl, h1,
    show 2 ^ n - 1 + x.toNat = (x.toNat - 1) + 2 ^ n by omega, Nat.add_mod_right,
    Nat.mod_eq_of_lt (by omega)]

/-- Counting down a constant. -/
theorem ofNat_succ_sub_one (w n : Nat) : BitVec.ofNat w (n + 1) - 1 = BitVec.ofNat w n := by
  rcases w with _ | w
  · exact BitVec.eq_of_toNat_eq (by simp [Nat.mod_one])
  · apply BitVec.eq_of_toNat_eq
    have h2 : 2 ≤ 2 ^ (w + 1) := by
      have := Nat.one_le_two_pow (n := w)
      rw [Nat.pow_succ]; omega
    have h1 : (1 : BitVec (w + 1)).toNat = 1 := by simp
    rw [BitVec.toNat_sub, h1, BitVec.toNat_ofNat, BitVec.toNat_ofNat, Nat.add_mod_mod,
      show 2 ^ (w + 1) - 1 + (n + 1) = n + 2 ^ (w + 1) by omega, Nat.add_mod_right]

/-- The slots below the top one, and the top one, make up the whole value. -/
theorem Params.slots_eq (p : Params) : (p.C - 1) * p.W + p.W = p.L := by
  have := p.C_pos
  show _ = p.C * p.W
  rw [Nat.sub_mul, Nat.one_mul]
  exact Nat.sub_add_cancel (Nat.le_mul_of_pos_left _ this)

/-- A bit of a segment lies within the value. -/
theorem Params.slot_lt (p : Params) {k b : Nat} (hk : k < p.C) (hb : b < p.W) : k * p.W + b < p.L := by
  have h : (k + 1) * p.W ≤ p.C * p.W := Nat.mul_le_mul_right _ hk
  rw [Nat.add_mul, Nat.one_mul] at h
  show _ < p.C * p.W
  omega

namespace Machine

/-- Where each bit of the init image comes from. -/
theorem getLsbD_loadInit {p : Params} (v : BitVec p.L) {j : Nat} (hj : j < p.L) :
    (loadInit v).getLsbD j =
      (decide ((p.C - 1) * p.W ≤ j) && v.getLsbD (j - (p.C - 1) * p.W)) := by
  have := p.slots_eq
  simp only [loadInit, seg, BitVec.getLsbD_shiftLeft, BitVec.getLsbD_setWidth,
    BitVec.getLsbD_extractLsb']
  by_cases h : (p.C - 1) * p.W ≤ j
  · have a1 : j - (p.C - 1) * p.W < p.L := by omega
    have a2 : j - (p.C - 1) * p.W < p.W := by omega
    simp [h, hj, Nat.not_lt.2 h, a1, a2]
  · simp [h, hj]

end Machine

end Sys2Proof
end

