-- ==== Sys2Proof/Laws/Cycle.lean ====
section
/-! SUPPORT. One cycle by the state it begins in, and how what is seen of a run splits at a cycle. -/

namespace Sys2Proof.Machine

variable {p : Params}

/-- A tick cycle is one whose divider holds 0. -/
theorem tick_iff (r : Regs p) : r.tick = true ↔ r.divCnt = 0 := by simp [Regs.tick]

/-- The operation of a cycle is the one the fetch finds. -/
theorem opOf_eq (r : Regs p) (i : Inputs p) : opOf r i = .ok (tickOp r i) := decodeT_selT _

/-- A cycle with reset. -/
theorem nextRegs_reset (r : Regs p) {i : Inputs p} (h : i.rst = true) : nextRegs r i = Regs.reset p := by
  simp [nextRegs, h]

/-- A cycle without a tick counts the divider and keeps all but the latch. -/
theorem nextRegs_hold {r : Regs p} {i : Inputs p} (h : i.rst = false) (ht : r.tick = false) :
    nextRegs r i = { r with divCnt := r.divCnt - 1, initLatched := r.initLatched || i.init } := by
  simp [nextRegs, h, tickOp, ht, opRegs, divNext]

/-- A tick cycle, state by state. -/
theorem nextRegs_tick {r : Regs p} {i : Inputs p} (h : i.rst = false) (ht : r.tick = true) :
    nextRegs r i =
      match r.st with
      | .idle =>
        if initPending r i then
          { r with st := .setup, sr := loadInit i.data, bitCnt := lastBit p, wordCnt := oneWord p,
                   divCnt := divReloadValue p, initLatched := r.initLatched || i.init }
        else if i.start then
          { r with st := .setup, sr := i.data, bitCnt := lastBit p, wordCnt := allWords p,
                   divCnt := divReloadValue p, initLatched := r.initLatched || i.init }
        else
          { r with bitCnt := lastBit p, wordCnt := allWords p,
                   initLatched := r.initLatched || i.init }
      | .setup =>
        { r with st := if r.bitZero then .delay else .hold, divCnt := divReloadValue p,
                 initLatched := r.initLatched || i.init }
      | .hold =>
        { r with st := .setup, bitCnt := r.bitCnt - 1, sr := shl1 r.sr, divCnt := divReloadValue p,
                 initLatched := r.initLatched || i.init }
      | .delay =>
        { r with st := .busyLow, wordCnt := r.wordCnt - 1, sr := shl1 r.sr,
                 initLatched := r.initLatched || i.init }
      | .busyLow =>
        { r with st := if i.busy then .busyLow else .busyHigh,
                 initLatched := r.initLatched || i.init }
      | .busyHigh =>
        if i.busy then
          if r.wordZero then
            { r with st := .idle, bitCnt := lastBit p,
                     initialized := r.initialized || initPending r i,
                     initLatched := r.initLatched || i.init }
          else
            { r with st := .setup, bitCnt := lastBit p, divCnt := divReloadValue p,
                     initLatched := r.initLatched || i.init }
        else { r with initLatched := r.initLatched || i.init } := by
  obtain ⟨st, d, sr, bc, wc, il, ini⟩ := r
  cases st
  · cases hip : initPending (⟨.idle, d, sr, bc, wc, il, ini⟩ : Regs p) i <;> cases hs : i.start <;>
      simp [nextRegs, h, tickOp, ht, divNext, divLoad, req, opRegs, hip, hs]
  · cases hz : Regs.bitZero (⟨.setup, d, sr, bc, wc, il, ini⟩ : Regs p) <;>
      simp [nextRegs, h, tickOp, ht, divNext, divLoad, opRegs, hz]
  · simp [nextRegs, h, tickOp, ht, divNext, divLoad, opRegs]
  · simp [nextRegs, h, tickOp, ht, divNext, divLoad, opRegs]
  · cases hb : i.busy <;> simp [nextRegs, h, tickOp, ht, divNext, divLoad, opRegs, hb]
  · cases hip : initPending (⟨.busyHigh, d, sr, bc, wc, il, ini⟩ : Regs p) i <;>
      cases hz : Regs.wordZero (⟨.busyHigh, d, sr, bc, wc, il, ini⟩ : Regs p) <;>
      cases hb : i.busy <;>
      simp [nextRegs, h, tickOp, ht, divNext, divLoad, opRegs, hb, hip, hz]

/-- A run is without reset in a part of the cycles in which it is without reset. -/
theorem NoReset.of_part {i : Nat → Inputs p} {t n : Nat} (h : NoReset i t n) (k m : Nat)
    (hk : k + m ≤ n) : NoReset i (t + k) m := by
  intro j hj
  have := h (k + j) (by omega)
  rwa [← Nat.add_assoc] at this

/-- What is seen of `init` splits at a cycle. -/
theorem initSeen_add (i : Nat → Inputs p) (t m n : Nat) :
    initSeen i t (m + n) = (initSeen i t m || initSeen i (t + m) n) := by
  simp only [initSeen, List.range_add, List.any_append, List.any_map, Function.comp_def, Nat.add_assoc]

theorem initSeen_zero (i : Nat → Inputs p) (t : Nat) : initSeen i t 0 = false := rfl

theorem initSeen_one (i : Nat → Inputs p) (t : Nat) : initSeen i t 1 = (i t).init := by
  simp [initSeen, List.range_succ]

/-- What a device samples splits at a cycle. -/
theorem sampled_add (r : Nat → Regs p) (t m n : Nat) :
    sampled r t (m + n) = sampled r t m ++ sampled r (t + m) n := by
  simp only [sampled, List.range_add, List.filter_append, List.map_append, List.filter_map,
    List.map_map, Function.comp_def, Nat.add_assoc]

/-- The frames that open split at a cycle. -/
theorem framesOpened_add (r : Nat → Regs p) (t m n : Nat) :
    framesOpened r t (m + n) = framesOpened r t m + framesOpened r (t + m) n := by
  simp only [framesOpened, List.range_add, List.filter_append, List.length_append, List.filter_map,
    List.length_map, Function.comp_def, Nat.add_assoc]

/-- The operations executed split at a cycle. -/
theorem opsExecuted_add (r : Nat → Regs p) (i : Nat → Inputs p) (t m n : Nat) :
    opsExecuted r i t (m + n) = opsExecuted r i t m ++ opsExecuted r i (t + m) n := by
  simp only [opsExecuted, List.range_add, List.filterMap_append, List.filterMap_map,
    Function.comp_def, Nat.add_assoc]

/-- In one cycle the device samples the bit on the line where the clock falls at its end. -/
theorem sampled_one (r : Nat → Regs p) (t : Nat) :
    sampled r t 1 = if (r t).sclk && !(r (t + 1)).sclk then [(r t).sdo] else [] := by
  cases h : (r t).sclk && !(r (t + 1)).sclk <;> simp_all [sampled, List.range_succ]

/-- In one cycle a frame opens where chip-select falls at its end. -/
theorem framesOpened_one (r : Nat → Regs p) (t : Nat) :
    framesOpened r t 1 = if (r t).csN && !(r (t + 1)).csN then 1 else 0 := by
  cases h : (r t).csN && !(r (t + 1)).csN <;> simp_all [framesOpened, List.range_succ]

/-- In one cycle one operation is executed, which FSM_HOLD does not count as. -/
theorem opsExecuted_one (r : Nat → Regs p) (i : Nat → Inputs p) (t : Nat) :
    opsExecuted r i t 1 =
      if tickOp (r t) (i t) = .fsmHold then [] else [tickOp (r t) (i t)] := by
  simp [opsExecuted, List.range_succ, opOf_eq]
  split <;> simp_all

end Sys2Proof.Machine
end

