-- ==== Sys2Proof/Laws/PerInstr.lean ====
section
/-! SUPPORT. Statements about every operation, one lemma per constructor. -/

namespace Sys2Proof.Laws.RoundTrip

/-- The operation's word of rule R53 decodes to the operation, and is a word the operation fits. -/
def Statement (i : Instr) : Prop :=
  decode (encode i) = .ok i ∧ (encode i).fits (encodeMask i) (encode i) = true ∧
    (encode i).wellFormed = true

theorem fsmHold : Statement .fsmHold := ⟨rfl, rfl, rfl⟩
theorem idleWait : Statement .idleWait := ⟨rfl, rfl, rfl⟩
theorem startNormal : Statement .startNormal := ⟨rfl, rfl, rfl⟩
theorem startInit : Statement .startInit := ⟨rfl, rfl, rfl⟩
theorem setupNext : Statement .setupNext := ⟨rfl, rfl, rfl⟩
theorem setupLast : Statement .setupLast := ⟨rfl, rfl, rfl⟩
theorem holdShift : Statement .holdShift := ⟨rfl, rfl, rfl⟩
theorem delayEnd : Statement .delayEnd := ⟨rfl, rfl, rfl⟩
theorem busylowWait : Statement .busylowWait := ⟨rfl, rfl, rfl⟩
theorem busylowAck : Statement .busylowAck := ⟨rfl, rfl, rfl⟩
theorem busyhighWait : Statement .busyhighWait := ⟨rfl, rfl, rfl⟩
theorem busyhighNext : Statement .busyhighNext := ⟨rfl, rfl, rfl⟩
theorem busyhighDone : Statement .busyhighDone := ⟨rfl, rfl, rfl⟩
theorem busyhighDoneInit : Statement .busyhighDoneInit := ⟨rfl, rfl, rfl⟩
theorem divCount : Statement .divCount := ⟨rfl, rfl, rfl⟩
theorem divReload : Statement .divReload := ⟨rfl, rfl, rfl⟩
theorem divFreeze : Statement .divFreeze := ⟨rfl, rfl, rfl⟩
theorem latchKeep : Statement .latchKeep := ⟨rfl, rfl, rfl⟩
theorem latchSet : Statement .latchSet := ⟨rfl, rfl, rfl⟩
theorem reset : Statement .reset := ⟨rfl, rfl, rfl⟩

end Sys2Proof.Laws.RoundTrip
end

