-- ==== Sys2Proof/Tests/Slice0.lean ====
section
/-! SUPPORT. Tests on fixed values, and for every statement with hypotheses a concrete case that meets
them all. Expected values are those of the tables of spec/95_test_vectors.md where a vector is named, and
of the patterns of rule R53 for the decoder. -/

namespace Sys2Proof.Tests

open Sys2Proof Sys2Proof.Machine

/-! ## Well-formedness: each check refuses an ill-formed term -/

theorem test_build_refuses_no_channel : Params.build? 0 3 2 = none := by decide
theorem test_build_refuses_no_width : Params.build? 2 0 2 = none := by decide
theorem test_build_refuses_no_divisor : Params.build? 2 3 0 = none := by decide
theorem test_build_accepts_the_smallest : (Params.build? 1 1 1).isSome = true := by decide
theorem test_legal_refuses :
    legalParams 0 3 2 = false ∧ legalParams 2 0 2 = false ∧ legalParams 2 3 0 = false ∧
      legalParams 1 1 1 = true := by decide
/-- State code 6 with a tick, the first code that names no state (R57). -/
theorem test_wellFormed_refuses_code_six :
    (SelWord.T 0b111000000#9).wellFormed = false ∧
      decode (.T 0b111000000#9) = .error (.stateCode 0b110#3) := by decide
theorem test_wellFormed_refuses_code_seven :
    (SelWord.T 0b111100000#9).wellFormed = false ∧
      decode (.T 0b111100000#9) = .error (.stateCode 0b111#3) := by decide
theorem test_wellFormed_refuses_no_reset :
    (SelWord.R 0b0#1).wellFormed = false ∧ decode (.R 0b0#1) = .error .noReset := by decide
/-- The last code that names a state, and a word whose code is not looked at. -/
theorem test_wellFormed_accepts :
    (SelWord.T 0b110100000#9).wellFormed = true ∧ (SelWord.T 0b011111111#9).wellFormed = true ∧
      (SelWord.D 0b00#2).wellFormed = true ∧ (SelWord.L 0b0#1).wellFormed = true ∧
      (SelWord.R 0b1#1).wellFormed = true := by decide

/-! ## Decoding, one word per operation: its pattern of R53 with every bit it does not look at set -/

theorem test_decode_fsmHold : decode (.T 0b011111111#9) = .ok .fsmHold := by decide
theorem test_decode_idleWait : decode (.T 0b100000111#9) = .ok .idleWait := by decide
theorem test_decode_startNormal : decode (.T 0b100010111#9) = .ok .startNormal := by decide
theorem test_decode_startInit : decode (.T 0b100011111#9) = .ok .startInit := by decide
theorem test_decode_setupNext : decode (.T 0b100111101#9) = .ok .setupNext := by decide
theorem test_decode_setupLast : decode (.T 0b100111111#9) = .ok .setupLast := by decide
theorem test_decode_holdShift : decode (.T 0b101011111#9) = .ok .holdShift := by decide
theorem test_decode_delayEnd : decode (.T 0b101111111#9) = .ok .delayEnd := by decide
theorem test_decode_busylowWait : decode (.T 0b110011111#9) = .ok .busylowWait := by decide
theorem test_decode_busylowAck : decode (.T 0b110011011#9) = .ok .busylowAck := by decide
theorem test_decode_busyhighWait : decode (.T 0b110111011#9) = .ok .busyhighWait := by decide
theorem test_decode_busyhighNext : decode (.T 0b110111110#9) = .ok .busyhighNext := by decide
theorem test_decode_busyhighDone : decode (.T 0b110110111#9) = .ok .busyhighDone := by decide
theorem test_decode_busyhighDoneInit : decode (.T 0b110111111#9) = .ok .busyhighDoneInit := by decide
theorem test_decode_divCount : decode (.D 0b01#2) = .ok .divCount := by decide
theorem test_decode_divReload : decode (.D 0b11#2) = .ok .divReload := by decide
theorem test_decode_divFreeze : decode (.D 0b10#2) = .ok .divFreeze := by decide
theorem test_decode_latchKeep : decode (.L 0b0#1) = .ok .latchKeep := by decide
theorem test_decode_latchSet : decode (.L 0b1#1) = .ok .latchSet := by decide
theorem test_decode_reset : decode (.R 0b1#1) = .ok .reset := by decide

/-- The last word of the table in its own number of bits, in whole bytes, and past its format. -/
theorem test_table_word :
    decodeTableWord 9 0x1AD = some .busyhighDoneInit ∧ decodeTableWord 16 0x1AD = some .busyhighDoneInit ∧
      decodeTableWord 16 0x1C0 = none ∧ decodeTableWord 16 0x200 = none ∧
      decodeTableWord 8 3 = some .divReload ∧ decodeTableWord 8 4 = none ∧
      decodeTableWord 8 1 = some .reset ∧ decodeTableWord 1 1 = some .latchSet := by decide

/-! ## A small core and its states -/

/-- `C = 2`, `W = 3`, `N = 2`, as most vectors have it. -/
def small : Params := { C := 2, W := 3, N := 2, C_pos := by decide, W_pos := by decide, N_pos := by decide }

/-- `C = W = N = 1`, the smallest core. -/
def tiny : Params := { C := 1, W := 1, N := 1, C_pos := by decide, W_pos := by decide, N_pos := by decide }

/-- Registers in the order of the vectors. -/
def regs (p : Params) (st : FsmState) (d sr b w : Nat) (il ini : Bool) : Regs p :=
  ⟨st, BitVec.ofNat _ d, BitVec.ofNat _ sr, BitVec.ofNat _ b, BitVec.ofNat _ w, il, ini⟩

/-- Inputs without reset. -/
def ins (p : Params) (start init busy : Bool) (data : Nat) : Inputs p :=
  ⟨false, start, init, busy, BitVec.ofNat _ data⟩

/-- A cycle of the small core, the inputs of the next cycle being given. -/
def before (r : Regs small) (i : Inputs small) : State := ⟨small, r, i, [ins small false false true 0], 0⟩

/-- The cycle after it. -/
def after (r : Regs small) : State := ⟨small, r, ins small false false true 0, [], 1⟩

/-! ## One step per operation: hypotheses met, and the vector's next state -/

/-- V-SETUP.1: the last cycle without a tick. -/
theorem witness_fsmHold :
    let r := regs small .setup 1 0b101011 2 2 false false
    let i := ins small false false true 0
    i.rst = false ∧ r.divCnt ≠ 0 ∧ opOf r i = .ok .fsmHold ∧
      step (before r i) = .next (after (regs small .setup 0 0b101011 2 2 false false)) :=
  ⟨rfl, by decide, rfl, rfl⟩

/-- V-IDLE.1. -/
theorem witness_idleWait :
    let r := regs small .idle 0 0 0 0 false false
    let i := ins small false false true 0b101011
    i.rst = false ∧ r.divCnt = 0 ∧ r.st = .idle ∧ i.start = false ∧ initPending r i = false ∧
      step (before r i) = .next (after (regs small .idle 0 0 2 2 false false)) :=
  ⟨rfl, rfl, rfl, rfl, rfl, rfl⟩

/-- V-IDLE.3. -/
theorem witness_startNormal :
    let r := regs small .idle 0 0 2 2 false false
    let i := ins small true false true 0b101011
    i.rst = false ∧ r.divCnt = 0 ∧ r.st = .idle ∧ i.start = true ∧ initPending r i = false ∧
      step (before r i) = .next (after (regs small .setup 1 0b101011 2 2 false false)) :=
  ⟨rfl, rfl, rfl, rfl, rfl, rfl⟩

/-- V-IDLE.7: both requests, from the raw input alone. -/
theorem witness_startInit :
    let r := regs small .idle 0 0 2 2 false false
    let i := ins small true true true 0b101011
    i.rst = false ∧ r.divCnt = 0 ∧ r.st = .idle ∧ initPending r i = true ∧
      step (before r i) = .next (after (regs small .setup 1 0b011000 2 1 true false)) :=
  ⟨rfl, rfl, rfl, rfl, rfl⟩

/-- V-IDLE.6. -/
theorem test_startInit_from_the_latch :
    let r := regs small .idle 0 0 2 2 true false
    let i := ins small false false true 0b101011
    i.rst = false ∧ r.divCnt = 0 ∧ r.st = .idle ∧ initPending r i = true ∧
      step (before r i) = .next (after (regs small .setup 1 0b011000 2 1 true false)) :=
  ⟨rfl, rfl, rfl, rfl, rfl⟩

/-- V-SETUP.4: `start` and `busy` ignored. -/
theorem witness_setupNext :
    let r := regs small .setup 0 0b101011 2 2 false false
    let i := ins small true false false 0
    i.rst = false ∧ r.divCnt = 0 ∧ r.st = .setup ∧ r.bitCnt ≠ 0 ∧ r.bitCnt.toNat ≤ small.W - 1 ∧
      step (before r i) = .next (after (regs small .hold 1 0b101011 2 2 false false)) :=
  ⟨rfl, rfl, rfl, by decide, by decide, rfl⟩

/-- V-SETUP.3. -/
theorem witness_setupLast :
    let r := regs small .setup 0 0b101100 0 2 false false
    let i := ins small false false true 0
    i.rst = false ∧ r.divCnt = 0 ∧ r.st = .setup ∧ r.bitCnt = 0 ∧
      step (before r i) = .next (after (regs small .delay 1 0b101100 0 2 false false)) :=
  ⟨rfl, rfl, rfl, rfl, rfl⟩

/-- V-SETUP.7: the last decrement that does not underflow. -/
theorem witness_holdShift :
    let r := regs small .hold 0 0b110000 1 1 false false
    let i := ins small false false true 0
    i.rst = false ∧ r.divCnt = 0 ∧ r.st = .hold ∧ 1 ≤ r.bitCnt.toNat ∧
      step (before r i) = .next (after (regs small .setup 1 0b100000 0 1 false false)) :=
  ⟨rfl, rfl, rfl, by decide, rfl⟩

/-- V-SETUP.8: the decrement wraps in a state no run reaches. -/
theorem test_holdShift_wraps :
    let r := regs small .hold 0 0b110000 0 1 false false
    let i := ins small false false true 0
    i.rst = false ∧ r.divCnt = 0 ∧ r.st = .hold ∧
      step (before r i) = .next (after (regs small .setup 1 0b100000 3 1 false false)) :=
  ⟨rfl, rfl, rfl, rfl⟩

/-- V-DELAY.3: the last word. -/
theorem witness_delayEnd :
    let r := regs small .delay 0 0b100000 0 1 false false
    let i := ins small false false true 0
    i.rst = false ∧ r.divCnt = 0 ∧ r.st = .delay ∧ 1 ≤ r.wordCnt.toNat ∧
      step (before r i) = .next (after (regs small .busyLow 0 0 0 0 false false)) :=
  ⟨rfl, rfl, rfl, by decide, rfl⟩

/-- V-DELAY.4: the decrement wraps in a state no run reaches. -/
theorem test_delayEnd_wraps :
    let r := regs small .delay 0 0b100000 0 0 false false
    let i := ins small false false true 0
    i.rst = false ∧ r.divCnt = 0 ∧ r.st = .delay ∧
      step (before r i) = .next (after (regs small .busyLow 0 0 0 3 false false)) :=
  ⟨rfl, rfl, rfl, rfl⟩

/-- V-DELAY.5. -/
theorem witness_busylowWait :
    let r := regs small .busyLow 0 0b011000 0 1 false false
    let i := ins small false false true 0
    i.rst = false ∧ r.divCnt = 0 ∧ r.st = .busyLow ∧ i.busy = true ∧
      step (before r i) = .next (after (regs small .busyLow 0 0b011000 0 1 false false)) :=
  ⟨rfl, rfl, rfl, rfl, rfl⟩

/-- V-DELAY.6. -/
theorem witness_busylowAck :
    let r := regs small .busyLow 0 0b011000 0 1 false false
    let i := ins small false false false 0
    i.rst = false ∧ r.divCnt = 0 ∧ r.st = .busyLow ∧ i.busy = false ∧
      step (before r i) = .next (after (regs small .busyHigh 0 0b011000 0 1 false false)) :=
  ⟨rfl, rfl, rfl, rfl, rfl⟩

/-- V-DELAY.14: `busy = 0` wins over everything. -/
theorem witness_busyhighWait :
    let r := regs small .busyHigh 0 0 0 0 true false
    let i := ins small false false false 0
    i.rst = false ∧ r.divCnt = 0 ∧ r.st = .busyHigh ∧ i.busy = false ∧
      step (before r i) = .next (after (regs small .busyHigh 0 0 0 0 true false)) :=
  ⟨rfl, rfl, rfl, rfl, rfl⟩

/-- V-DELAY.9: an init request pending. -/
theorem witness_busyhighNext :
    let r := regs small .busyHigh 0 0b011000 0 1 true false
    let i := ins small false false true 0
    i.rst = false ∧ opOf r i = .ok .busyhighNext ∧ r.divCnt = 0 ∧ r.st = .busyHigh ∧ i.busy = true ∧ r.wordCnt ≠ 0 ∧
      step (before r i) = .next (after (regs small .setup 1 0b011000 2 1 true false)) :=
  ⟨rfl, rfl, rfl, rfl, rfl, by decide, rfl⟩

/-- V-DELAY.13: `initialized` already 1. -/
theorem witness_busyhighDone :
    let r := regs small .busyHigh 0 0 0 0 true true
    let i := ins small false true true 0
    i.rst = false ∧ r.divCnt = 0 ∧ r.st = .busyHigh ∧ i.busy = true ∧ r.wordCnt = 0 ∧ initPending r i = false ∧
      step (before r i) = .next (after (regs small .idle 0 0 2 0 true true)) :=
  ⟨rfl, rfl, rfl, rfl, rfl, rfl, rfl⟩

/-- V-DELAY.12: the raw `init` of the very cycle. -/
theorem witness_busyhighDoneInit :
    let r := regs small .busyHigh 0 0 0 0 false false
    let i := ins small false true true 0
    i.rst = false ∧ r.divCnt = 0 ∧ r.st = .busyHigh ∧ i.busy = true ∧ r.wordCnt = 0 ∧ initPending r i = true ∧
      step (before r i) = .next (after (regs small .idle 0 0 2 0 true true)) :=
  ⟨rfl, rfl, rfl, rfl, rfl, rfl, rfl⟩

/-- V-SETUP.9: the boundary of the count, with an init pulse in a cycle without a tick. -/
theorem witness_divCount :
    let r := regs small .hold 1 0b101011 2 2 false false
    let i := ins small false true true 0
    i.rst = false ∧ r.tick = false ∧ r.divCnt.toNat ≤ small.N - 1 ∧ i.init = true ∧
      step (before r i) = .next (after (regs small .hold 0 0b101011 2 2 true false)) :=
  ⟨rfl, rfl, by decide, rfl, rfl⟩

/-- V-DELAY.8. -/
theorem witness_divReload :
    let r := regs small .busyHigh 0 0b011000 0 1 false false
    let i := ins small false false true 0
    i.rst = false ∧ r.tick = true ∧ divLoad r i = true ∧
      step (before r i) = .next (after (regs small .setup 1 0b011000 2 1 false false)) :=
  ⟨rfl, rfl, rfl, rfl⟩

/-- V-DELAY.2. -/
theorem witness_divFreeze :
    let r := regs small .delay 0 0b101100 0 2 false false
    let i := ins small false false true 0
    i.rst = false ∧ r.tick = true ∧ divLoad r i = false ∧
      step (before r i) = .next (after (regs small .busyLow 0 0b011000 0 1 false false)) :=
  ⟨rfl, rfl, rfl, rfl⟩

/-- V-IDLE.8: `init` where `initialized` is 1. -/
theorem witness_latchSet :
    let r := regs small .idle 0 0 2 2 true true
    let i := ins small false true true 0b101011
    i.rst = false ∧ i.init = true ∧
      step (before r i) = .next (after (regs small .idle 0 0 2 2 true true)) :=
  ⟨rfl, rfl, rfl⟩

/-- V-DELAY.11: the latch stays after initialization. -/
theorem witness_latchKeep :
    let r := regs small .busyHigh 0 0 0 0 true false
    let i := ins small false false true 0
    i.rst = false ∧ i.init = false ∧
      step (before r i) = .next (after (regs small .idle 0 0 2 0 true true)) :=
  ⟨rfl, rfl, rfl⟩

/-- The facts of R27 in the cycle of V-SETUP.1, in which FSM_HOLD is executed. -/
theorem witness_fsmHold_reachable :
    let r := regs small .setup 1 0b101011 2 2 false false
    ReachableFacts r ∧ opOf r (ins small false false true 0) = .ok .fsmHold :=
  ⟨⟨by decide, by decide, by decide, by decide, by decide, by decide, by decide,
    fun h => absurd h (by decide)⟩, by decide⟩

/-- With `W = 1` a tick of SETUP is SETUP_LAST. -/
theorem witness_setupLast_tiny :
    let r := regs tiny .setup 0 1 0 1 false false
    tiny.W = 1 ∧ r.bitCnt.toNat ≤ tiny.W - 1 ∧ r.divCnt = 0 ∧ r.st = .setup ∧
      opOf r (ins tiny false false true 1) = .ok .setupLast := by decide

/-- The invariant in the cycle of V-DELAY.8, in which BUSYHIGH_NEXT is executed. -/
theorem witness_busyhighNext_invariant :
    let r := regs small .busyHigh 0 0b011000 0 1 false false
    r.Inv ∧ opOf r (ins small false false true 0) = .ok .busyhighNext := by
  refine ⟨⟨⟨by decide, by decide, by decide, by decide, by decide, by decide, by decide,
    fun h => absurd h (by decide)⟩, by decide, by decide, ?_⟩, by decide⟩
  intro j hj
  have h3 : j < 3 := Nat.lt_of_add_lt_add_right (n := 3) hj
  interval_cases j <;> decide

/-- The invariant in the cycle of V-DELAY.10, in which BUSYHIGH_DONE is executed. -/
theorem witness_busyhighDone_invariant :
    let r := regs small .busyHigh 0 0 0 0 false false
    r.Inv ∧ opOf r (ins small false false true 0) = .ok .busyhighDone := by
  refine ⟨⟨⟨by decide, by decide, by decide, by decide, by decide, by decide, by decide,
    fun h => absurd h (by decide)⟩, by decide, by decide, ?_⟩, by decide⟩
  intro j _
  simp [regs]

/-- V-RESET.1: from the middle of a word. -/
theorem witness_reset :
    let i : Inputs small := { ins small false false true 0 with rst := true }
    i.rst = true ∧
      step (before (regs small .hold 1 0b010110 1 2 true true) i) =
        .next (after (regs small .idle 0 0 0 0 false false)) := by
  refine ⟨?_, ?_⟩ <;> rfl

/-- With `N = 1` a reload gives a tick again. -/
theorem witness_divReload_tiny :
    let r := regs tiny .setup 0 1 0 1 false false
    tiny.N = 1 ∧ r.tick = true ∧ divLoad r (ins tiny false false true 1) = true ∧
      (nextRegs r (ins tiny false false true 1)).tick = true := by decide

/-! ## Values and outputs (V-FUNC, V-IDLE.1) -/

theorem test_width : [0, 1, 2, 3, 4, 23, 24].map width = [1, 1, 2, 2, 3, 5, 5] := by decide
theorem test_shl1 :
    shl1 (p := small) 0b101011#6 = 0b010110#6 ∧ shl1 (p := small) 0b100000#6 = 0#6 ∧
      shl1 (p := tiny) 0b1#1 = 0#1 := ⟨rfl, rfl, rfl⟩
theorem test_loadInit :
    loadInit (p := small) 0b101011#6 = 0b011000#6 ∧
      loadInit (p := Params.scenario) 0x111111222222333333ABCDEF#96 =
        0xABCDEF000000000000000000#96 ∧
      loadInit (p := tiny) 0b1#1 = 0b1#1 := ⟨rfl, rfl, rfl⟩
theorem test_seg :
    (List.range 4).map (fun k => (seg (p := Params.scenario) k 0x111111222222333333ABCDEF#96).toNat) =
      [0xABCDEF, 0x333333, 0x222222, 0x111111] := by decide
theorem test_outputs_idle :
    State.outputs (before (regs small .idle 0 0 0 0 false false) (ins small false false true 0)) =
      ⟨true, false, false, true, false⟩ := by decide
theorem test_outputs_setup :
    State.outputs (before (regs small .setup 0 0b101011 2 2 false false) (ins small true false false 0)) =
      ⟨false, false, true, false, true⟩ := by decide

/-! ## Witnesses for the statements about a cycle -/

/-- Some cycle follows every cycle. -/
theorem stepsTo_next {p : Params} (r : Regs p) (i : Inputs p) : StepsTo r i (nextRegs r i) :=
  (stepsTo_iff _ _ _).2 rfl

theorem witness_StepRunsTheDecodedOperations :
    let s := before (regs small .hold 0 0b101011 2 2 false false) (ins small false true true 0)
    s.inputs.rst = false ∧ ∃ t d l s₁ s₂ s₃,
      decode (.T s.selT) = .ok t ∧ decode (.D s.selD) = .ok d ∧ decode (.L s.selL) = .ok l ∧
      exec t s = .next s₁ ∧ exec d s₁ = .next s₂ ∧ exec l s₂ = .next s₃ :=
  ⟨rfl, .holdShift, .divReload, .latchSet, _, _, _, rfl, rfl, rfl, rfl, rfl, rfl⟩

theorem witness_StepRunsReset :
    let s := before (regs small .hold 0 0b101011 2 2 false false)
      { ins small false true true 0 with rst := true }
    s.inputs.rst = true ∧ ∃ i s₁, decode (.R s.selR) = .ok i ∧ exec i s = .next s₁ :=
  ⟨rfl, .reset, _, rfl, rfl⟩

theorem witness_OperationsOfACycleCommute :
    encode .holdShift = .T 0x140#9 ∧ encode .divReload = .D 3#2 ∧ encode .latchSet = .L 1#1 ∧
      [Instr.latchSet, .holdShift, .divReload].Perm [.holdShift, .divReload, .latchSet] := by decide

theorem witness_EveryWordFitsOneEncoding :
    (SelWord.T 0b110100000#9).wellFormed = true ∧ (SelWord.T 0b111000000#9).wellFormed = false := by decide

/-- Two cycles that differ in `sr` and `data` and have the same words. -/
theorem witness_SelectorWordsHoldTheirFields :
    let s := before (regs small .hold 0 0b101011 2 2 false false) (ins small false false true 1)
    let s' := before (regs small .hold 0 0b110000 1 1 false false) (ins small false false true 0)
    s ≠ s' ∧ s.selT = s'.selT ∧ s.selD = s'.selD ∧ s.selL = s'.selL ∧ s.selR = s'.selR := by decide

theorem witness_PlacedWordIsExecuted :
    decodeTableWord 9 0x120 = some .setupNext ∧ decodeTableWord 8 2 = some .divFreeze ∧
      decodeTableWord 1 0 = some .latchKeep ∧ decodeTableWord 8 1 = some .reset := by decide

/-- A value beyond every bit, two values that agree in segment 0 only, and the bounds of `k`. -/
theorem witness_ShiftAndLoad :
    small.L ≤ 6 ∧ 5 < small.L ∧ 1 < small.C ∧ 0 < small.C - 1 ∧ 2 < small.W ∧ tiny.C = 1 ∧
      seg (p := small) 0 0b101011#6 = seg (p := small) 0 0b000011#6 := by decide

/-- Two values whose segments all agree. -/
theorem witness_SegmentsAreTheData :
    ∃ v v' : BitVec small.L, ∀ k < small.C, seg k v = seg k v' := ⟨0b101011#6, 0b101011#6, fun _ _ => rfl⟩

/-- A width that is the least one, and the two cases of counting down. -/
theorem witness_CountersHoldTheirConstants :
    1 ≤ 2 ∧ 3 < 2 ^ 2 ∧ width 3 = 2 ∧
      (regs small .hold 0 0 0 0 false false).countBit.bitCnt.toNat = 3 ∧
      (regs small .delay 0 0 0 1 false false).countWord.wordCnt.toNat = 0 := by decide

theorem witness_ReadyMeansAcceptedAtOnce :
    let r := regs small .idle 0 0 2 2 false false
    let r' := regs small .idle 0 0 2 2 true true
    let i := ins small false false true 0
    ready r i = true ∧ r.divCnt = 0 ∧ r.initialized = false ∧ ready r' i = true ∧ r'.divCnt = 0 ∧
      r'.initialized = true := by decide

theorem witness_OutputsOfTheSameCycle :
    let i := ins small true false true 0
    let j : Inputs small := { ins small true false false 5 with rst := true }
    i.start = j.start ∧ i.init = j.init := by decide

/-- The DELAY cycle of V-DELAY.2 after initialization: the bits still to be sent are on top of zeros. -/
theorem witness_EveryCycleKeepsTheInvariant :
    let s := before (regs small .delay 0 0b101100 0 2 true true) (ins small false false true 0)
    s.regs.Inv ∧ step s = .next (after (regs small .busyLow 0 0b011000 0 1 true true)) := by
  refine ⟨⟨⟨by decide, by decide, by decide, by decide, by decide, by decide, by decide, ?_⟩, by decide,
    by decide, ?_⟩, rfl⟩
  · intro _ i
    simp [initPending, before, regs]
  · intro j hj
    have h2 : j < 2 := by
      have h : (before (regs small .delay 0 0b101100 0 2 true true)
        (ins small false false true 0)).regs.bitsLeft = 4 := by decide
      rw [h] at hj
      exact Nat.lt_of_add_lt_add_right (n := 4) hj
    interval_cases j <;> decide

theorem witness_PerRegisterView :
    let r := regs small .busyHigh 0 0 0 0 true false
    let i := ins small false false true 0
    i.rst = false ∧ StepsTo r i (nextRegs r i) := ⟨rfl, stepsTo_next _ _⟩

/-- The clause of a cycle without a tick; a tick cycle is in every test above. -/
theorem witness_TransitionGraph :
    let r := regs small .delay 1 0 0 2 false false
    let i := ins small true true false 0
    i.rst = false ∧ r.tick = false ∧ StepsTo r i (nextRegs r i) := ⟨rfl, by decide, stepsTo_next _ _⟩

/-- Outside IDLE, and in IDLE with an init request. -/
theorem witness_StartIsIgnoredOutsideIdle :
    let r := regs small .busyHigh 0 0 0 0 false false
    let r' := regs small .idle 0 0 2 2 true false
    let i := ins small false false true 0
    (r.st ≠ .idle ∧ StepsTo r i (nextRegs r i) ∧
      StepsTo r { i with start := true } (nextRegs r { i with start := true })) ∧
    (initPending r' i = true ∧ StepsTo r' i (nextRegs r' i) ∧
      StepsTo r' { i with start := true } (nextRegs r' { i with start := true })) :=
  ⟨⟨by decide, stepsTo_next _ _, stepsTo_next _ _⟩, by decide, stepsTo_next _ _, stepsTo_next _ _⟩

/-- In IDLE without a request, and in a cycle of IDLE with a request but no tick. -/
theorem witness_DataIsReadOnlyByTheLoad :
    let r := regs small .idle 0 0 2 2 false false
    let i := ins small false false true 0
    srLoad r i = false ∧ srLoad (regs small .idle 1 0 2 2 false false) { i with start := true } = false ∧
      StepsTo r i (nextRegs r i) ∧
      StepsTo r { i with data := 0b101011#6 } (nextRegs r { i with data := 0b101011#6 }) :=
  ⟨by decide, by decide, stepsTo_next _ _, stepsTo_next _ _⟩

theorem witness_BusyIsLookedAtOnlyInBusyStates :
    let r := regs small .delay 0 0b101100 0 2 false false
    let i := ins small false false true 0
    r.st ≠ .busyLow ∧ r.st ≠ .busyHigh ∧ StepsTo r i (nextRegs r i) ∧
      StepsTo r { i with busy := false } (nextRegs r { i with busy := false }) :=
  ⟨by decide, by decide, stepsTo_next _ _, stepsTo_next _ _⟩

theorem witness_InitIsIgnoredAfterInitialization :
    let r := regs small .idle 0 0 2 2 true true
    let i := ins small true false true 0b101011
    r.initialized = true ∧ StepsTo r i (nextRegs r i) ∧
      StepsTo r { i with init := true } (nextRegs r { i with init := true }) :=
  ⟨rfl, stepsTo_next _ _, stepsTo_next _ _⟩

/-- A reset cycle, and an init request after it. -/
theorem witness_InitIsHonouredAfterReset :
    let r := regs small .idle 0 0 2 2 true true
    let i : Inputs small := { ins small false false true 0 with rst := true }
    i.rst = true ∧ StepsTo r i (nextRegs r i) ∧ (ins small false true true 0).init = true :=
  ⟨rfl, stepsTo_next _ _, rfl⟩

/-- The three operations of V-DELAY.12 on the same snapshot. -/
theorem witness_StepIsAFunctionOfRegistersAndInputs :
    let s := before (regs small .busyHigh 0 0 0 0 false false) (ins small false true true 0)
    s.inputs.rst = false ∧ s.fetch = .ok [.busyhighDoneInit, .divFreeze, .latchSet] ∧
      ∃ rt rd rl, exec .busyhighDoneInit s = .next { s with regs := rt } ∧
        exec .divFreeze s = .next { s with regs := rd } ∧
        exec .latchSet s = .next { s with regs := rl } :=
  ⟨rfl, by rfl, _, _, _, rfl, rfl, rfl⟩

/-- A cycle that changes `initialized`, and one that has it already. -/
theorem witness_InitFlagsAreSticky :
    let r := regs small .busyHigh 0 0 0 0 true false
    let r' := regs small .busyHigh 0 0 0 0 true true
    let i := ins small false false true 0
    i.rst = false ∧ StepsTo r i (nextRegs r i) ∧ (nextRegs r i).initialized ≠ r.initialized ∧
      StepsTo r' i (nextRegs r' i) ∧ r'.initialized = true :=
  ⟨rfl, stepsTo_next _ _, by decide, stepsTo_next _ _, rfl⟩

/-- One edge of each kind. -/
theorem witness_EdgesOfTheSerialPins :
    let i := ins small true false true 0b101011
    let idle := regs small .idle 0 0 2 2 false false
    let setup := regs small .setup 0 0b101011 2 2 false false
    let delay := regs small .delay 0 0b101100 0 2 false false
    i.rst = false ∧
      (opOf idle i = .ok .startNormal ∧ StepsTo idle i (nextRegs idle i) ∧
        (nextRegs idle i).sclk = true ∧ (nextRegs idle i).csN = false) ∧
      (opOf setup i = .ok .setupNext ∧ StepsTo setup i (nextRegs setup i) ∧
        (nextRegs setup i).sclk = false) ∧
      (opOf delay i = .ok .delayEnd ∧ StepsTo delay i (nextRegs delay i) ∧
        (nextRegs delay i).csN = true ∧ (nextRegs delay i).sdo ≠ delay.sdo) :=
  ⟨rfl, ⟨by decide, stepsTo_next _ _, by decide, by decide⟩, ⟨by decide, stepsTo_next _ _, by decide⟩,
    by decide, stepsTo_next _ _, by decide, by decide⟩

/-- Both ends of a transfer, and the three cases of the request after it. -/
theorem witness_RequestAfterATransferIsAccepted :
    let r := regs small .busyHigh 0 0 0 0 false false
    let r' := regs small .busyHigh 0 0 0 0 true false
    let i := ins small false false true 0
    i.rst = false ∧ opOf r i = .ok .busyhighDone ∧ opOf r' i = .ok .busyhighDoneInit ∧
      StepsTo r i (nextRegs r i) ∧
      initPending (nextRegs r i) (ins small false true true 0) = true ∧
      initPending (nextRegs r i) (ins small true false true 0) = false ∧
      ready (nextRegs r i) i = true :=
  ⟨rfl, by decide, by decide, stepsTo_next _ _, by decide, by decide, by decide⟩

/-! ## Witnesses for the statements about runs -/

/-- The run from given registers under given inputs. -/
def runFrom {p : Params} (r : Regs p) (i : Nat → Inputs p) : Nat → Regs p
  | 0 => r
  | t + 1 => nextRegs (runFrom r i t) (i t)

theorem runFrom_isRun {p : Params} (r : Regs p) (i : Nat → Inputs p) : IsRun (runFrom r i) i :=
  (isRun_iff _ _).2 fun _ => rfl

/-- Inputs that never ask for anything. -/
def quietForever (p : Params) (_ : Nat) : Inputs p := ins p false false true 0

theorem witness_ReachableFactsInEveryRun :
    IsRun (runFrom (.reset small) (quietForever small)) (quietForever small) ∧
      runFrom (.reset small) (quietForever small) 0 = .reset small := ⟨runFrom_isRun _ _, rfl⟩

theorem witness_InitializedIsSetAtMostOnce :
    let r := runFrom (regs small .busyHigh 0 0 0 0 true false) (quietForever small)
    IsRun r (quietForever small) ∧ NoReset (quietForever small) 0 2 ∧
      opOf (r 0) (quietForever small 0) = .ok .busyhighDoneInit :=
  ⟨runFrom_isRun _ _, fun _ _ => rfl, by decide⟩

/-- A reload in SETUP, and a frozen divider in IDLE. -/
theorem witness_OneTickPerPeriod :
    let r := runFrom (regs small .setup 0 0b101011 2 2 false false) (quietForever small)
    let r' := runFrom (.reset small) (quietForever small)
    NoReset (quietForever small) 0 small.N ∧
      (IsRun r (quietForever small) ∧ (r 0).tick = true ∧ divLoad (r 0) (quietForever small 0) = true) ∧
      (IsRun r' (quietForever small) ∧ (r' 0).tick = true ∧
        divLoad (r' 0) (quietForever small 0) = false) :=
  ⟨fun _ _ => rfl, ⟨runFrom_isRun _ _, by decide, by decide⟩, runFrom_isRun _ _, by decide, by decide⟩

/-- A stall of two cycles in each polled state. -/
theorem witness_StallHasNoTimeout :
    let r := runFrom (regs small .busyLow 0 0 0 1 false false) (quietForever small)
    let low : Nat → Inputs small := fun _ => ins small true true false 0
    let r' := runFrom (regs small .busyHigh 0 0 0 1 false false) low
    (IsRun r (quietForever small) ∧ NoReset (quietForever small) 0 2 ∧ (r 0).divCnt = 0 ∧
      (r 0).st = .busyLow ∧ ∀ k < 2, (quietForever small (0 + k)).busy = true) ∧
    (IsRun r' low ∧ NoReset low 0 2 ∧ (r' 0).divCnt = 0 ∧ (r' 0).st = .busyHigh ∧
      ∀ k < 2, (low (0 + k)).busy = false) :=
  ⟨⟨runFrom_isRun _ _, fun _ _ => rfl, rfl, rfl, fun _ _ => rfl⟩, runFrom_isRun _ _, fun _ _ => rfl, rfl,
    rfl, fun _ _ => rfl⟩

/-- P1, the first word, from cycle 2 on. -/
theorem witness_WordCycleByCycle :
    let r := runFrom (regs small .setup 1 0b101011 2 2 false false) (quietForever small)
    IsRun r (quietForever small) ∧ NoReset (quietForever small) 0 (2 * small.W * small.N) ∧
      (r 0).st = .setup ∧ (r 0).divCnt = BitVec.ofNat _ (small.N - 1) ∧
      (r 0).bitCnt = BitVec.ofNat _ (small.W - 1) :=
  ⟨runFrom_isRun _ _, fun _ _ => rfl, rfl, rfl, rfl⟩

/-- `C = 2`, `W = 2`, `N = 1`, of programs P3 and P5. -/
def pair : Params := { C := 2, W := 2, N := 1, C_pos := by decide, W_pos := by decide, N_pos := by decide }

/-- Program P3 from its cycle 1 on, without the second `init`: `busy` is 0 in the BUSY_LOW cycles only. -/
def inputsP3 (withInit : Bool) (t : Nat) : Inputs pair :=
  ins pair (t == 0) (withInit && t == 3) (!(t == 5 || t == 11)) 0b1001

/-- The device of P3 answers each word at once. -/
theorem device_answers_P3 (b : Bool) :
    ∀ j < pair.C, DeviceAnswers (inputsP3 b) (0 + 1 + wordStart pair (fun _ => 1) (fun _ => 1) j) 1 1 := by
  intro j hj
  have h : j = 0 ∨ j = 1 := by have : pair.C = 2 := rfl; omega
  rcases h with rfl | rfl <;>
    exact ⟨by decide, by decide, by intro k hk; omega, by decide +revert, by decide +revert⟩

/-- For NormalTransferTakesItsCycles, NormalTransferSendsTheDataMsbFirst and the first clause of
TransferRunsItsOperations (there without the `init` pulse, so that no init request is pending at the end). -/
theorem witness_NormalTransfer (b : Bool) :
    let r := runFrom (regs pair .idle 0 0 1 2 false false) (inputsP3 b)
    IsRun r (inputsP3 b) ∧
      NoReset (inputsP3 b) 0 (1 + wordStart pair (fun _ => 1) (fun _ => 1) pair.C) ∧
      (r 0).st = .idle ∧ (r 0).divCnt = 0 ∧ (inputsP3 b 0).start = true ∧
      initPending (r 0) (inputsP3 b 0) = false ∧
      (∀ j < pair.C,
        DeviceAnswers (inputsP3 b) (0 + 1 + wordStart pair (fun _ => 1) (fun _ => 1) j) 1 1) ∧
      initPending (r (0 + wordStart pair (fun _ => 1) (fun _ => 1) pair.C))
        (inputsP3 b (0 + wordStart pair (fun _ => 1) (fun _ => 1) pair.C)) = b := by
  refine ⟨runFrom_isRun _ _, fun _ _ => rfl, rfl, rfl, rfl, ?_, device_answers_P3 b, ?_⟩
  · cases b <;> decide
  · cases b <;> decide

/-- P3: the device samples the four bits of `0b1001`, in two frames, and `initialized` becomes 1. -/
theorem test_P3 :
    sampled (runFrom (regs pair .idle 0 0 1 2 false false) (inputsP3 true)) 0 13 =
        [true, false, false, true] ∧
      framesOpened (runFrom (regs pair .idle 0 0 1 2 false false) (inputsP3 true)) 0 13 = 2 ∧
      runFrom (regs pair .idle 0 0 1 2 false false) (inputsP3 true) 13 =
        regs pair .idle 0 0 1 0 true true := by decide

/-- Program P5 from its cycle 1 to the end of its init transfer. -/
def inputsP5 (t : Nat) : Inputs pair := ins pair (t == 0 || t == 2 || t == 5) (t == 0) (!(t == 5)) 0b1001

/-- For InitTransferSetsInitialized, InitTransferSendsSegmentZero and the second clause of
TransferRunsItsOperations. -/
theorem witness_InitTransfer :
    let r := runFrom (regs pair .idle 0 0 1 2 false false) inputsP5
    IsRun r inputsP5 ∧ NoReset inputsP5 0 (1 + (2 * pair.W * pair.N + 1 + 1)) ∧
      NoReset inputsP5 0 (1 + wordStart pair (fun _ => 1) (fun _ => 1) 1) ∧
      (r 0).st = .idle ∧ (r 0).divCnt = 0 ∧ initPending (r 0) (inputsP5 0) = true ∧
      DeviceAnswers inputsP5 (0 + 1) 1 1 := by
  refine ⟨runFrom_isRun _ _, fun _ _ => rfl, fun _ _ => rfl, rfl, rfl, by decide, by decide, by decide, ?_,
    by decide, by decide⟩
  intro k hk
  omega

/-- P5: the device samples the two bits of segment 0, in one frame, and `initialized` becomes 1. -/
theorem test_P5_init :
    sampled (runFrom (regs pair .idle 0 0 1 2 false false) inputsP5) 0 7 = [false, true] ∧
      framesOpened (runFrom (regs pair .idle 0 0 1 2 false false) inputsP5) 0 7 = 1 ∧
      runFrom (regs pair .idle 0 0 1 2 false false) inputsP5 7 =
        regs pair .idle 0 0 1 0 true true := by decide

/-- A device that answers after one more cycle in each polled state. -/
theorem witness_DeviceAnswers_late :
    DeviceAnswers (p := tiny) (fun t => ins tiny false false (!(t == 3 || t == 4)) 0) 0 2 2 := by
  refine ⟨by decide, by decide, ?_, ?_, by decide⟩
  · intro k hk
    obtain rfl : k = 0 := by omega
    rfl
  · intro k hk
    obtain rfl | rfl : k = 0 ∨ k = 1 := by omega
    · rfl
    · rfl

/-- The five cycles of a transfer of the smallest core, `start` being held at 1 (as in P8). -/
def loopRegs : Nat → Regs tiny
  | 0 => regs tiny .idle 0 0 0 0 false false
  | 1 => regs tiny .setup 0 1 0 1 false false
  | 2 => regs tiny .delay 0 1 0 1 false false
  | 3 => regs tiny .busyLow 0 0 0 0 false false
  | _ => regs tiny .busyHigh 0 0 0 0 false false

/-- The inputs of these cycles: `busy` is 0 in BUSY_LOW only. -/
def loopIns (c : Nat) : Inputs tiny := ins tiny true false (!(c == 3)) 1

/-- An endless run in which the device keeps its contract and both polled states are visited. -/
theorem witness_TransfersEndIfTheDeviceAnswers :
    let r : Nat → Regs tiny := fun t => loopRegs (t % 5)
    let i : Nat → Inputs tiny := fun t => loopIns (t % 5)
    IsRun r i ∧ (∀ t, (i t).rst = false) ∧ BusyLive r i ∧ (r 3).st = .busyLow ∧ (r 4).st = .busyHigh := by
  have turn : ∀ c < 5, loopRegs ((c + 1) % 5) = nextRegs (loopRegs c) (loopIns c) := by decide
  have low : ∀ c < 5, (loopRegs c).st = .busyLow → (loopIns c).busy = false := by decide
  have high : ∀ c < 5, (loopRegs c).st = .busyHigh → (loopIns c).busy = true := by decide
  refine ⟨(isRun_iff _ _).2 fun t => ?_, fun _ => rfl, ⟨fun t h => ⟨0, ?_, ?_⟩, fun t h => ⟨0, ?_, ?_⟩⟩,
    rfl, rfl⟩
  · have := turn (t % 5) (Nat.mod_lt _ (by decide))
    rwa [Nat.mod_add_mod] at this
  · exact low _ (Nat.mod_lt _ (by decide)) h
  · intro k hk
    obtain rfl : k = 0 := by omega
    exact h
  · exact high _ (Nat.mod_lt _ (by decide)) h
  · intro k hk
    obtain rfl : k = 0 := by omega
    exact h

end Sys2Proof.Tests
end

section
/-! PROOFS. The step as a pure function of registers and inputs (rule R39), and its three operations as
one simultaneous write from one snapshot (rules R23, R54). -/

namespace Sys2Proof.Machine

variable {p : Params}

/-- An operation's answer names the registers it leaves. -/
theorem exec_next_iff (op : Instr) (r r' : Regs p) (i : Inputs p) (u : List (Inputs p)) (c : Nat) :
    exec op ⟨p, r, i, u, c⟩ = .next ⟨p, r', i, u, c⟩ ↔ r' = opRegs op r i := by
  simp [exec_eq, eq_comm]

/-- A cycle without reset is three operations run on one snapshot `r`, each landing its own registers:
the model's one-after-another run (log entry 2) is the simultaneous one. -/
theorem nextRegs_snapshot (r : Regs p) {i : Inputs p} (h : i.rst = false) :
    nextRegs r i =
      { opRegs (tickOp r i) r i with
        divCnt := (opRegs (divOp r i) r i).divCnt
        initLatched := (opRegs (latchOp i) r i).initLatched } := by
  simp [nextRegs, h, opRegs_divOp r r i rfl, opRegs_latchOp]

/-- Which operations a cycle without reset fetches depends on its registers and inputs alone. -/
theorem fetch_ops_inv {r : Regs p} {i : Inputs p} {u : List (Inputs p)} {c : Nat} {t d l : Instr}
    (h : i.rst = false) (hf : State.fetch ⟨p, r, i, u, c⟩ = .ok [t, d, l]) :
    t = tickOp r i ∧ d = divOp r i ∧ l = latchOp i := by
  rw [fetch_ops _ h] at hf
  simpa [eq_comm] using hf

end Sys2Proof.Machine

namespace Sys2Proof

open Machine

/-- Settles O24: the one value is `nextRegs r i`. -/
theorem stepIsAFunctionOfRegistersAndInputs : Obligations.StepIsAFunctionOfRegistersAndInputs := by
  intro p r i
  refine ⟨nextRegs r i, (stepsTo_iff r i _).2 rfl, fun r'' => (stepsTo_iff r i r'').1,
    step_eq p r i, fun _ _ _ _ => rfl, ?snapshot⟩
  case snapshot =>
    intro hrst u c t d l rt rd rl hfetch ht hd hl
    obtain ⟨rfl, rfl, rfl⟩ := fetch_ops_inv hrst hfetch
    obtain rfl := (exec_next_iff _ _ _ _ _ _).1 ht
    obtain rfl := (exec_next_iff _ _ _ _ _ _).1 hd
    obtain rfl := (exec_next_iff _ _ _ _ _ _).1 hl
    exact nextRegs_snapshot r hrst

end Sys2Proof
end

section
/-! PROOFS. The pattern table of rule R53: the decoder's branches are the `match` and `mask` rows, read
field by field. The selector words of a cycle hold the fields of rules R51 and R52. -/

namespace Sys2Proof

/-- A format T word is its seven fields (rule R51). -/
theorem formatT_ext_iff (a b : BitVec 9) :
    a = b ↔ a.getLsbD 8 = b.getLsbD 8 ∧ a.extractLsb' 5 3 = b.extractLsb' 5 3 ∧
      a.getLsbD 4 = b.getLsbD 4 ∧ a.getLsbD 3 = b.getLsbD 3 ∧ a.getLsbD 2 = b.getLsbD 2 ∧
      a.getLsbD 1 = b.getLsbD 1 ∧ a.getLsbD 0 = b.getLsbD 0 := by
  constructor
  · rintro rfl
    simp
  · rintro ⟨h8, hc, h4, h3, h2, h1, h0⟩
    have hcode : ∀ k < 3, a.getLsbD (5 + k) = b.getLsbD (5 + k) := fun k hk => by
      simpa [hk] using congrArg (·.getLsbD k) hc
    apply BitVec.eq_of_getLsbD_eq
    intro j hj
    interval_cases j
    exacts [h0, h1, h2, h3, h4, hcode 0 (by decide), hcode 1 (by decide), hcode 2 (by decide), h8]

/-- A pattern of format T is matched field by field. -/
theorem fits_formatT_iff (w m v : BitVec 9) :
    (SelWord.T w).fits (.T m) (.T v) = true ↔
      (w.getLsbD 8 && m.getLsbD 8) = v.getLsbD 8 ∧
      w.extractLsb' 5 3 &&& m.extractLsb' 5 3 = v.extractLsb' 5 3 ∧
      (w.getLsbD 4 && m.getLsbD 4) = v.getLsbD 4 ∧ (w.getLsbD 3 && m.getLsbD 3) = v.getLsbD 3 ∧
      (w.getLsbD 2 && m.getLsbD 2) = v.getLsbD 2 ∧ (w.getLsbD 1 && m.getLsbD 1) = v.getLsbD 1 ∧
      (w.getLsbD 0 && m.getLsbD 0) = v.getLsbD 0 := by
  simp only [SelWord.fits, beq_iff_eq, formatT_ext_iff (w &&& m), BitVec.getLsbD_and,
    BitVec.extractLsb'_and]

/-- A row that looks at the state looks at the number its code stands for, which the decoder branches on. -/
theorem code_and_seven_eq_iff (c v : BitVec 3) : c &&& 7#3 = v ↔ c.toNat = v.toNat := by
  rw [show 7#3 = BitVec.allOnes 3 from rfl, BitVec.and_allOnes, BitVec.toNat_inj]

/-- Every branch of the format T decoder answers an operation whose row the word fits. -/
theorem fits_of_decodeT {w : BitVec 9} {op : Instr} (h : decodeT w = .ok op) :
    (SelWord.T w).fits (encodeMask op) (encode op) = true := by
  simp only [decodeT] at h
  split at h
  case isFalse htick =>
    cases h
    simpa [encode, encodeMask, fits_formatT_iff] using htick
  case isTrue htick =>
    -- one case per state code, then one per value of the bits its state looks at
    split at h <;> cases h <;> (repeat' split) <;>
      simp_all [encode, encodeMask, fits_formatT_iff, code_and_seven_eq_iff]

/-- The fields that an operation's row asks for lead the format T decoder to the operation. -/
theorem decodeT_of_fits {w : BitVec 9} {op : Instr}
    (h : (SelWord.T w).fits (encodeMask op) (encode op) = true) : decodeT w = .ok op := by
  cases op
  case divCount | divReload | divFreeze | latchKeep | latchSet | reset => cases h
  all_goals simp_all [decodeT, encode, encodeMask, fits_formatT_iff, code_and_seven_eq_iff]

/-- Rule R53 in every format: a word selects an operation exactly when `(sel & mask) == match` for the
operation's row. -/
theorem decode_eq_ok_iff_fits (w : SelWord) (op : Instr) :
    decode w = .ok op ↔ w.fits (encodeMask op) (encode op) = true := by
  cases w with
  | T w => exact ⟨fits_of_decodeT, decodeT_of_fits⟩
  | D w => cases op <;> revert w <;> decide
  | L w => cases op <;> revert w <;> decide
  | R w => cases op <;> revert w <;> decide

namespace Machine

/-- Every bit of a packed format T word (rule R51); the state code is bits 7 down to 5. -/
theorem getLsbD_packT (tick : Bool) (st : FsmState) (start ip busy bz wz : Bool) (k : Nat) :
    (packT tick st start ip busy bz wz).getLsbD k =
      match k with
      | 0 => wz
      | 1 => bz
      | 2 => busy
      | 3 => ip
      | 4 => start
      | j + 5 => if j < 3 then st.code.getLsbD j else (j == 3 && tick) := by
  unfold packT
  change BitVec.getLsbD (w := 1 + 3 + 1 + 1 + 1 + 1 + 1) _ _ = _
  simp only [BitVec.getLsbD_append, BitVec.getLsbD_ofBool]
  rcases k with _ | _ | _ | _ | _ | j
  case succ =>
    have htick : (j - 3 = 0 ∧ ¬ j < 3) ↔ j = 3 := by omega
    grind
  all_goals rfl

/-- The state code within a packed format T word (rules R50, R51). -/
theorem extractLsb'_packT (tick : Bool) (st : FsmState) (start ip busy bz wz : Bool) :
    (packT tick st start ip busy bz wz).extractLsb' 5 3 = st.code := by
  apply BitVec.eq_of_getLsbD_eq
  intro j hj
  rw [BitVec.getLsbD_extractLsb', Nat.add_comm 5 j, getLsbD_packT]
  simp only [hj, decide_true, Bool.true_and, if_true]

/-- The two bits of `sel_D` (rule R52). -/
theorem getLsbD_selD (s : State) :
    s.selD.getLsbD 1 = s.regs.tick ∧ s.selD.getLsbD 0 = divLoad s.regs s.inputs := by
  constructor <;> exact (BitVec.getLsbD_append (n := 1) (m := 1)).trans (by simp)

/-- The bits `sel_L` and `sel_R` (rule R52). -/
theorem getLsbD_selL_selR (s : State) :
    s.selL.getLsbD 0 = s.inputs.init ∧ s.selR.getLsbD 0 = s.inputs.rst := by
  simp [State.selL, State.selR]

/-- The four selector words of a cycle alone choose its operations (rule R54). -/
theorem fetch_congr {s s' : State} (hT : s.selT = s'.selT) (hD : s.selD = s'.selD)
    (hL : s.selL = s'.selL) (hR : s.selR = s'.selR) : s.fetch = s'.fetch := by
  simp only [State.fetch, hT, hD, hL, hR]

end Machine

open Machine

/-- Settles O26: the rows are those of `encode` and `encodeMask`, and the next `st` of a row is that of
the registers its operation leaves. -/
theorem decodeIsThePatternTable : Obligations.DecodeIsThePatternTable := by
  refine ⟨?formatT, ?formatD, ?formatL, ?formatR, ?nextSt⟩
  case nextSt =>
    rintro ⟨p, r, i, u, c⟩ e he
    refine ⟨_, exec_eq e.1 p r i u c, ?_⟩
    revert e
    simp [opRegs]
  all_goals
    intro w op
    rw [decode_eq_ok_iff_fits]
    cases op <;> simp [encode, encodeMask, SelWord.fits]

/-- Settles O28, field by field. -/
theorem selectorWordsHoldTheirFields : Obligations.SelectorWordsHoldTheirFields := by
  refine ⟨fun s s' hT => ⟨?opT, fetch_congr hT⟩, fun s => ?fields⟩
  case opT => rw [State.opT, State.opT, hT]
  case fields =>
    obtain ⟨htick, hload⟩ := getLsbD_selD s
    obtain ⟨hinit, hrst⟩ := getLsbD_selL_selR s
    exact ⟨getLsbD_packT .., extractLsb'_packT .., getLsbD_packT .., getLsbD_packT ..,
      getLsbD_packT .., getLsbD_packT .., getLsbD_packT .., htick, hload, hinit, hrst⟩

end Sys2Proof
end

section
/-! PROOFS. The divider (rules R70 to R76): the value a cycle without reset leaves in `div_cnt`, by the
divider operation the cycle executes, and what that value says of the next cycle's tick. -/

namespace Sys2Proof.Machine

variable {p : Params}

/-- A cycle without a tick is one whose divider has something left to count (rule R70). -/
theorem tick_eq_false_iff (r : Regs p) : r.tick = false ↔ 1 ≤ r.divCnt.toNat := by
  rw [← Bool.not_eq_true, tick_iff]
  refine ⟨one_le_toNat, fun hpos hzero => ?_⟩
  simp [hzero] at hpos

/-- A cycle without a tick ends with the divider one lower, whatever `div_load` is (rule R74). -/
theorem divCnt_nextRegs_count {r : Regs p} {i : Inputs p} (h : i.rst = false) (ht : r.tick = false) :
    (nextRegs r i).divCnt = r.divCnt - 1 := by
  rw [nextRegs_hold h ht]

/-- A tick cycle with `div_load` ends with the divider reloaded (rule R75). -/
theorem divCnt_nextRegs_reload {r : Regs p} {i : Inputs p} (h : i.rst = false) (ht : r.tick = true)
    (hl : divLoad r i = true) : (nextRegs r i).divCnt = divReloadValue p := by
  simp [nextRegs, h, divNext, ht, hl]

/-- A tick cycle without `div_load` ends with the divider as it was, at 0 (rule R76). -/
theorem divCnt_nextRegs_freeze {r : Regs p} {i : Inputs p} (h : i.rst = false) (ht : r.tick = true)
    (hl : divLoad r i = false) : (nextRegs r i).divCnt = 0 := by
  simpa [nextRegs, h, divNext, ht, hl] using (tick_iff r).1 ht

/-- The reload value fits the divider. -/
theorem toNat_divReloadValue (p : Params) : (divReloadValue p).toNat = p.N - 1 :=
  toNat_ofNat_width le_rfl

/-- With `N = 1` the reload value is that of a tick (rule R75). -/
theorem divReloadValue_eq_zero_iff (p : Params) : divReloadValue p = 0 ↔ p.N = 1 := by
  have hN := p.N_pos
  exact (ofNat_width_eq_zero_iff le_rfl).trans (by omega)

end Sys2Proof.Machine

namespace Sys2Proof

open Machine

/-- Settles O15: a cycle without a tick is one with `div_cnt` at least 1, which `N = 1` leaves no room
for. -/
theorem divCountDecrements : Obligations.DivCountDecrements := by
  intro p r i u c
  refine ⟨exec_eq .divCount p r i u c, fun hrst htick => ?_⟩
  have hpos : 1 ≤ r.divCnt.toNat := (tick_eq_false_iff r).1 htick
  refine ⟨fun hrange hN => ?_, fun r' hstep => ⟨?_, hpos⟩⟩
  · omega
  · obtain rfl := (stepsTo_iff r i r').1 hstep
    rw [divCnt_nextRegs_count hrst htick, toNat_sub_one _ hpos]

/-- Settles O16: the reload value is the number `N - 1`, and 0 where `N = 1`. -/
theorem divReloadSetsThePeriod : Obligations.DivReloadSetsThePeriod := by
  intro p r i u c
  refine ⟨exec_eq .divReload p r i u c, fun hrst htick hload r' hstep => ?_⟩
  obtain rfl := (stepsTo_iff r i r').1 hstep
  rw [tick_iff, divCnt_nextRegs_reload hrst htick hload]
  exact ⟨toNat_divReloadValue p, (divReloadValue_eq_zero_iff p).2⟩

/-- Settles O17: the 0 that makes the tick is kept, and makes the next one. -/
theorem divFreezeKeepsTicking : Obligations.DivFreezeKeepsTicking := by
  intro p r i u c
  refine ⟨exec_eq .divFreeze p r i u c, fun hrst htick hload r' hstep => ?_⟩
  obtain rfl := (stepsTo_iff r i r').1 hstep
  have hzero := divCnt_nextRegs_freeze hrst htick hload
  exact ⟨hzero, (tick_iff _).2 hzero⟩

end Sys2Proof
end

section
/-! PROOFS. The tick-gated operations (rules R81 to R94): when a cycle selects each, the divider operation
that goes with it, and the step of such a cycle. Each operation's statement is a use of these three. -/

namespace Sys2Proof.Machine

variable {p : Params} {r : Regs p} {i : Inputs p} {op : Instr}

/-- When a cycle without reset selects an operation as its tick-gated one: the conditions that rules R81
to R94 write above each operation, on the registers and inputs and not on a selector word. -/
def Selects (r : Regs p) (i : Inputs p) : Instr → Prop
  | .fsmHold => r.divCnt ≠ 0
  | .idleWait => r.divCnt = 0 ∧ r.st = .idle ∧ i.start = false ∧ initPending r i = false
  | .startNormal => r.divCnt = 0 ∧ r.st = .idle ∧ i.start = true ∧ initPending r i = false
  | .startInit => r.divCnt = 0 ∧ r.st = .idle ∧ initPending r i = true
  | .setupNext => r.divCnt = 0 ∧ r.st = .setup ∧ r.bitCnt ≠ 0
  | .setupLast => r.divCnt = 0 ∧ r.st = .setup ∧ r.bitCnt = 0
  | .holdShift => r.divCnt = 0 ∧ r.st = .hold
  | .delayEnd => r.divCnt = 0 ∧ r.st = .delay
  | .busylowWait => r.divCnt = 0 ∧ r.st = .busyLow ∧ i.busy = true
  | .busylowAck => r.divCnt = 0 ∧ r.st = .busyLow ∧ i.busy = false
  | .busyhighWait => r.divCnt = 0 ∧ r.st = .busyHigh ∧ i.busy = false
  | .busyhighNext => r.divCnt = 0 ∧ r.st = .busyHigh ∧ i.busy = true ∧ r.wordCnt ≠ 0
  | .busyhighDone =>
    r.divCnt = 0 ∧ r.st = .busyHigh ∧ i.busy = true ∧ r.wordCnt = 0 ∧ initPending r i = false
  | .busyhighDoneInit =>
    r.divCnt = 0 ∧ r.st = .busyHigh ∧ i.busy = true ∧ r.wordCnt = 0 ∧ initPending r i = true
  | .divCount | .divReload | .divFreeze | .latchKeep | .latchSet | .reset => False

/-- The conditions of the operation that a cycle selects are met, branch by branch. -/
theorem selects_tickOp (r : Regs p) (i : Inputs p) : Selects r i (tickOp r i) := by
  unfold tickOp
  split
  case isFalse htick => exact fun hzero => htick ((tick_iff r).2 hzero)
  case isTrue htick =>
    have hdiv : r.divCnt = 0 := (tick_iff r).1 htick
    split <;> (repeat' split) <;> simp_all [Selects, Regs.bitZero, Regs.wordZero]

/-- The conditions of the operations exclude each other: only the selected one has its own met. -/
theorem tickOp_of_selects (h : Selects r i op) : tickOp r i = op := by
  cases op
  case divCount | divReload | divFreeze | latchKeep | latchSet | reset => cases h
  all_goals simp_all [Selects, tickOp, Regs.tick, Regs.bitZero, Regs.wordZero]

/-- The selector word of a cycle decodes to an operation exactly where its conditions are met. -/
theorem opOf_eq_ok_iff_selects : opOf r i = .ok op ↔ Selects r i op := by
  rw [opOf_eq, Except.ok.injEq]
  exact ⟨fun h => h ▸ selects_tickOp r i, tickOp_of_selects⟩

/-- The divider operation that goes with each tick-gated one (rule R72): a tick that leads to a timed
state starts a new period. -/
def divPartner : Instr → Instr
  | .fsmHold => .divCount
  | .startNormal | .startInit | .setupNext | .setupLast | .holdShift | .busyhighNext => .divReload
  | _ => .divFreeze

/-- A cycle executes the divider operation that goes with its tick-gated one. -/
theorem divOp_of_selects (h : Selects r i op) : divOp r i = divPartner op := by
  cases op
  case divCount | divReload | divFreeze | latchKeep | latchSet | reset => cases h
  all_goals simp_all [Selects, divOp, divPartner, Regs.tick, divLoad, req, Regs.wordZero]

/-- The registers that a cycle without reset leaves where it selects `op`: the operation's own, with the
divider and the latch as the operations beside it leave them. -/
def cycleRegs (op : Instr) (r : Regs p) (i : Inputs p) : Regs p :=
  { opRegs op r i with
    divCnt := (opRegs (divPartner op) r i).divCnt, initLatched := r.initLatched || i.init }

/-- The step of a cycle that selects `op`, the registers it leaves given in any form. -/
theorem step_of_selects (op : Instr) {r' : Regs p} {u : List (Inputs p)} {c : Nat}
    (hrst : i.rst = false) (hsel : Selects r i op) (hregs : cycleRegs op r i = r') :
    step ⟨p, r, i, u, c⟩ = .next (State.clockEdge ⟨p, r', i, u, c⟩) := by
  rw [step_eq, nextRegs_snapshot r hrst, tickOp_of_selects hsel, divOp_of_selects hsel,
    opRegs_latchOp, ← hregs]
  rfl

/-- The clock is high exactly in SETUP (rule R131). -/
theorem sclk_eq_true_iff (r : Regs p) : r.sclk = true ↔ r.st = .setup := by simp [Regs.sclk]

/-- The frame is open in SETUP, HOLD and DELAY (rule R132). -/
theorem csN_eq_false_iff (r : Regs p) :
    r.csN = false ↔ r.st = .setup ∨ r.st = .hold ∨ r.st = .delay := by
  unfold Regs.csN
  cases r.st <;> simp

/-- No cycle with `start` is ready (rule R134). -/
theorem ready_eq_false_of_start (r : Regs p) (h : i.start = true) : ready r i = false := by
  simp [ready, h]

/-- Where no bit is left to send, the shift register has run empty (rule R107). -/
theorem sr_eq_zero_of_bitsLeft_eq_zero (hinv : r.Inv) (h : r.bitsLeft = 0) : r.sr = 0 := by
  apply BitVec.eq_of_getLsbD_eq
  intro j hj
  rw [hinv.drained j (by omega)]
  simp

end Sys2Proof.Machine

namespace Sys2Proof

open Machine

/-- Settles O1: a divider that is not 0 is in no polled state, where it is frozen, and within no range of
`N = 1`. -/
theorem fsmHoldKeepsTickGatedRegisters : Obligations.FsmHoldKeepsTickGatedRegisters := by
  intro p r i u c
  refine ⟨exec_eq .fsmHold p r i u c, fun hrst hdiv => step_of_selects .fsmHold hrst hdiv rfl,
    fun hfacts hop => ?_⟩
  have hdiv : r.divCnt ≠ 0 := opOf_eq_ok_iff_selects.1 hop
  have hpolled : ¬ (r.st = .idle ∨ r.st = .busyLow ∨ r.st = .busyHigh) :=
    fun h => hdiv (hfacts.polled_frozen h)
  constructor
  · cases hst : r.st <;> simp_all
  · have := one_le_toNat hdiv
    have := hfacts.div_range
    omega

/-- Settles O2: the state the operation goes to is the one it is in. -/
theorem idleWaitPresetsCounters : Obligations.IdleWaitPresetsCounters := by
  intro p r i u c
  refine ⟨exec_eq .idleWait p r i u c, fun hrst hdiv hst hstart hip => ?_⟩
  exact step_of_selects .idleWait hrst ⟨hdiv, hst, hstart, hip⟩ (by rw [hst]; rfl)

/-- Settles O3: the `start` that selects the operation is what takes `ready` away. -/
theorem startNormalLoadsAllOfData : Obligations.StartNormalLoadsAllOfData := by
  intro p r i u c
  refine ⟨exec_eq .startNormal p r i u c, fun hrst hdiv hst hstart hip => ⟨?ready, ?step⟩⟩
  case ready => exact ready_eq_false_of_start r hstart
  case step => exact step_of_selects .startNormal hrst ⟨hdiv, hst, hstart, hip⟩ rfl

/-- Settles O5: with `W = 1` the range of `bit_cnt` is 0 alone. -/
theorem setupNextDropsTheClock : Obligations.SetupNextDropsTheClock := by
  intro p r i u c
  refine ⟨exec_eq .setupNext p r i u c, fun hrst hdiv hst hbits => ⟨fun hrange => ?width, ?pins⟩⟩
  case width =>
    have := one_le_toNat hbits
    omega
  case pins =>
    exact ⟨(sclk_eq_true_iff r).2 hst, rfl, rfl,
      step_of_selects .setupNext hrst ⟨hdiv, hst, hbits⟩ rfl⟩

/-- Settles O6: with `W = 1` the range of `bit_cnt` is 0 alone. -/
theorem setupLastEntersDelay : Obligations.SetupLastEntersDelay := by
  intro p r i u c
  refine ⟨exec_eq .setupLast p r i u c, fun hrst hdiv hst hbits => ?cycle,
    fun hW hrange hdiv hst => ?width⟩
  case cycle =>
    exact ⟨(sclk_eq_true_iff r).2 hst, rfl, (csN_eq_false_iff r).2 (.inl hst), rfl, rfl,
      step_of_selects .setupLast hrst ⟨hdiv, hst, hbits⟩ rfl⟩
  case width =>
    have hbits : r.bitCnt = 0 := by
      by_contra hne
      have := one_le_toNat hne
      omega
    exact opOf_eq_ok_iff_selects.2 ⟨hdiv, hst, hbits⟩

/-- Settles O7: the shift and the count are the operation's own, the clock rises with SETUP. -/
theorem holdShiftBringsTheNextBit : Obligations.HoldShiftBringsTheNextBit := by
  intro p r i u c
  refine ⟨exec_eq .holdShift p r i u c, toNat_sub_one r.bitCnt,
    fun hrst hdiv hst => ⟨?low, rfl, ?step⟩⟩
  case low => simp [← Bool.not_eq_true, sclk_eq_true_iff, hst]
  case step => exact step_of_selects .holdShift hrst ⟨hdiv, hst⟩ rfl

/-- Settles O8: DELAY is the last state of the frame. -/
theorem delayEndClosesTheFrame : Obligations.DelayEndClosesTheFrame := by
  intro p r i u c
  refine ⟨exec_eq .delayEnd p r i u c, toNat_sub_one r.wordCnt,
    fun hrst hdiv hst => ⟨?frame, rfl, ?step⟩⟩
  case frame => exact (csN_eq_false_iff r).2 (.inr (.inr hst))
  case step => exact step_of_selects .delayEnd hrst ⟨hdiv, hst⟩ rfl

/-- Settles O9: the state the operation goes to is the one it is in. -/
theorem busylowWaitStays : Obligations.BusylowWaitStays := by
  intro p r i u c
  refine ⟨exec_eq .busylowWait p r i u c, fun hrst hdiv hst hbusy => ?_⟩
  exact step_of_selects .busylowWait hrst ⟨hdiv, hst, hbusy⟩ (by rw [hst]; rfl)

/-- Settles O10: the conditions name the level of `busy` in this cycle and no earlier one. -/
theorem busylowAckSeesLevelZero : Obligations.BusylowAckSeesLevelZero := by
  intro p r i u c
  refine ⟨exec_eq .busylowAck p r i u c, fun hrst hdiv hst hbusy => ?_⟩
  exact step_of_selects .busylowAck hrst ⟨hdiv, hst, hbusy⟩ rfl

/-- Settles O11: the state the operation goes to is the one it is in. -/
theorem busyhighWaitStays : Obligations.BusyhighWaitStays := by
  intro p r i u c
  refine ⟨exec_eq .busyhighWait p r i u c, fun hrst hdiv hst hbusy => ?_⟩
  exact step_of_selects .busyhighWait hrst ⟨hdiv, hst, hbusy⟩ (by rw [hst]; rfl)

/-- Settles O12: between words at most `C - 1` words are left, so `C = 1` leaves none to begin. -/
theorem busyhighNextBeginsAWord : Obligations.BusyhighNextBeginsAWord := by
  intro p r i u c
  refine ⟨exec_eq .busyhighNext p r i u c, fun hop => ?words, fun hrst hdiv hst hbusy hwords => ?step⟩
  case words =>
    obtain ⟨-, hst, -, hwords⟩ := opOf_eq_ok_iff_selects.1 hop
    refine ⟨hwords, fun hinv => ?_⟩
    have := one_le_toNat hwords
    have := hinv.gap_words (.inr hst)
    omega
  case step => exact step_of_selects .busyhighNext hrst ⟨hdiv, hst, hbusy, hwords⟩ rfl

/-- Settles O13: after the last word no bit is left to send. -/
theorem busyhighDoneReturnsToIdle : Obligations.BusyhighDoneReturnsToIdle := by
  intro p r i u c
  refine ⟨exec_eq .busyhighDone p r i u c, fun hrst hdiv hst hbusy hwords hip => ?step,
    fun hinv hop => ?empty⟩
  case step => exact step_of_selects .busyhighDone hrst ⟨hdiv, hst, hbusy, hwords, hip⟩ rfl
  case empty =>
    obtain ⟨-, hst, -, hwords, -⟩ := opOf_eq_ok_iff_selects.1 hop
    exact sr_eq_zero_of_bitsLeft_eq_zero hinv (by simp [Regs.bitsLeft, hst, hwords])

end Sys2Proof
end

section
/-! PROOFS. The shift datapath (rules R100 to R102): where each bit of a shifted value, of a segment and of
a load image comes from. -/

namespace Sys2Proof.Machine

variable {p : Params}

/-- A shifted value takes each bit from the place below, and a 0 at the bottom (rule R100). -/
theorem getLsbD_shl1 (v : BitVec p.L) {j : Nat} (hj : j < p.L) :
    (shl1 v).getLsbD j = if j = 0 then false else v.getLsbD (j - 1) := by
  rw [shl1, BitVec.getLsbD_shiftLeft]
  cases j <;> simp [hj]

/-- Shifting one place `k` times is shifting by `k` places. -/
theorem shl1_iterate (k : Nat) (v : BitVec p.L) : shl1^[k] v = v <<< k := by
  induction k with
  | zero => simp
  | succ k ih => rw [Function.iterate_succ_apply', ih, shl1, BitVec.shiftLeft_add]

/-- Segment 0 is the low `W` bits (rule R31). -/
theorem seg_zero (v : BitVec p.L) : seg 0 v = v.setWidth p.W := by
  rw [seg, Nat.zero_mul, ← BitVec.setWidth_eq_extractLsb' (Nat.le_mul_of_pos_left _ p.C_pos)]

/-- Where each bit of a segment comes from (rule R31). -/
theorem getLsbD_seg (k : Nat) (v : BitVec p.L) {b : Nat} (hb : b < p.W) :
    (seg k v).getLsbD b = v.getLsbD (k * p.W + b) := by
  simp [seg, hb]

/-- The top slot of the init image holds segment 0 of the data (rule R102). -/
theorem seg_top_loadInit (v : BitVec p.L) : seg (p.C - 1) (loadInit v) = seg 0 v := by
  apply BitVec.eq_of_getLsbD_eq
  intro b hb
  have hslot := p.slot_lt (Nat.sub_lt p.C_pos Nat.one_pos) hb
  rw [getLsbD_seg _ _ hb, getLsbD_seg _ _ hb, getLsbD_loadInit v hslot]
  simp

/-- The slots of the init image below the top one are empty (rule R102). -/
theorem seg_loadInit_of_lt_top (v : BitVec p.L) {k : Nat} (hk : k < p.C - 1) :
    seg k (loadInit v) = 0 := by
  apply BitVec.eq_of_getLsbD_eq
  intro b hb
  have hslot : k * p.W + b < p.L := p.slot_lt (by omega) hb
  have hbelow : k * p.W + b < (p.C - 1) * p.W := by
    have : (k + 1) * p.W ≤ (p.C - 1) * p.W := Nat.mul_le_mul_right _ hk
    rw [Nat.add_mul, Nat.one_mul] at this
    omega
  rw [getLsbD_seg _ _ hb, getLsbD_loadInit v hslot]
  simp [Nat.not_le.2 hbelow]

/-- Values that agree in segment 0 have the same init image (rule R102). -/
theorem loadInit_congr {v v' : BitVec p.L} (h : seg 0 v = seg 0 v') : loadInit v = loadInit v' := by
  rw [loadInit, loadInit, h]

/-- With one channel the top slot is the only one, and the two images agree. -/
theorem loadInit_eq_loadNormal (v : BitVec p.L) (hC : p.C = 1) : loadInit v = loadNormal v := by
  apply BitVec.eq_of_getLsbD_eq
  intro j hj
  simp [getLsbD_loadInit v hj, loadNormal, hC]

end Sys2Proof.Machine

namespace Sys2Proof

open Machine

/-- Settles O30: a shift by as many places as there are bits leaves none of them. -/
theorem shiftInjectsZero : Obligations.ShiftInjectsZero := by
  refine fun p v => ⟨fun j hj => getLsbD_shl1 v hj, fun k => shl1_iterate k v, fun k hk => ?_⟩
  rw [shl1_iterate]
  exact BitVec.shiftLeft_eq_zero hk

/-- Settles O31, slot by slot. -/
theorem loadImages : Obligations.LoadImages := by
  intro p v v'
  refine ⟨rfl, fun k _ => rfl, ?lowBits, seg_top_loadInit v, fun k => seg_loadInit_of_lt_top v,
    loadInit_congr, loadInit_eq_loadNormal v⟩
  case lowBits => rw [loadInit, seg_zero]

end Sys2Proof
end

section
/-! PROOFS. The init latch (rules R120 to R125): what a cycle leaves in `init_latched`, and the two places
where a cycle reads `init`, the latch and `init_pending`. -/

namespace Sys2Proof.Machine

variable {p : Params}

/-- Every cycle without reset ends with the latch as its format L operation leaves it, in any state, with
or without a tick (rules R120, R121). -/
theorem initLatched_nextRegs (r : Regs p) {i : Inputs p} (h : i.rst = false) :
    (nextRegs r i).initLatched = (r.initLatched || i.init) := by
  simp [nextRegs, h]

/-- After initialization no init request is pending, whatever the latch and `init` hold (rule R122). -/
theorem initPending_eq_false_of_initialized {r : Regs p} (h : r.initialized = true) (i : Inputs p) :
    initPending r i = false := by
  simp [initPending, h]

/-- No operation reads `init`. -/
theorem opRegs_withInit (op : Instr) (r : Regs p) (i : Inputs p) (b : Bool) :
    opRegs op r { i with init := b } = opRegs op r i := by
  cases op <;> rfl

section
variable {r : Regs p} {i : Inputs p} {b : Bool}
  (hip : initPending r { i with init := b } = initPending r i)
include hip

/-- `init` takes part in the choice of the tick-gated operation through `init_pending` alone. -/
theorem tickOp_withInit : tickOp r { i with init := b } = tickOp r i := by
  simp only [tickOp, hip]

/-- `init` takes part in the request to the divider through `init_pending` alone (rule R72). -/
theorem divLoad_withInit : divLoad r { i with init := b } = divLoad r i := by
  unfold divLoad
  cases r.st
  case idle => simp only [req, hip]
  all_goals rfl

/-- `init` reaches the registers other than the latch through `init_pending` alone. -/
theorem nextRegs_withInit :
    nextRegs r { i with init := b } =
      { nextRegs r i with initLatched := (nextRegs r { i with init := b }).initLatched } := by
  simp only [nextRegs, divNext, tickOp_withInit hip, opRegs_withInit, divLoad_withInit hip]
  split
  case isTrue reset => rfl
  case isFalse noReset => rfl

/-- `init` reaches the outputs through `init_pending` alone (rule R134). -/
theorem outputs_withInit (u : List (Inputs p)) (c : Nat) :
    State.outputs ⟨p, r, { i with init := b }, u, c⟩ = State.outputs ⟨p, r, i, u, c⟩ := by
  simp only [State.outputs, ready, hip]

end

/-- In the first cycle after reset an init request is accepted at once (rules R83, R125). -/
theorem opOf_reset_of_init {j : Inputs p} (h : j.init = true) :
    opOf (Regs.reset p) j = .ok .startInit :=
  opOf_eq_ok_iff_selects.2 ⟨rfl, rfl, by simp [initPending, h]⟩

end Sys2Proof.Machine

namespace Sys2Proof

open Machine

/-- Settles O47: `init` is read through the latch and `init_pending`, and the latter is 0 from
initialization until reset. -/
theorem initIsIgnoredAfterInitialization : Obligations.InitIsIgnoredAfterInitialization := by
  refine ⟨fun p r i b r₁ r₂ hdone hstep₁ hstep₂ => ?ignored, fun p r i j r' hrst hstep => ?rearmed⟩
  case ignored =>
    have hip : initPending r { i with init := b } = initPending r i := by
      simp only [initPending_eq_false_of_initialized hdone]
    obtain rfl := (stepsTo_iff _ _ _).1 hstep₁
    obtain rfl := (stepsTo_iff _ _ _).1 hstep₂
    refine ⟨nextRegs_withInit hip, ?op, fun u c => (outputs_withInit hip u c).symm⟩
    case op => rw [opOf_eq, opOf_eq, tickOp_withInit hip]
  case rearmed =>
    obtain rfl := (stepsTo_iff _ _ _).1 hstep
    rw [nextRegs_reset r hrst]
    exact ⟨rfl, rfl, opOf_reset_of_init⟩

/-- Settles O18: the latch is written in every cycle, by the level of `init` alone. -/
theorem latchSetInAnyCycle : Obligations.LatchSetInAnyCycle := by
  intro p r i u c
  refine ⟨exec_eq .latchSet p r i u c, fun hrst hinit r' hstep => ?_⟩
  obtain rfl := (stepsTo_iff r i r').1 hstep
  rw [initLatched_nextRegs r hrst, hinit, Bool.or_true]

/-- Settles O19: no operation but RESET writes 0 to the latch. -/
theorem latchKeepIsSticky : Obligations.LatchKeepIsSticky := by
  intro p r i u c
  refine ⟨exec_eq .latchKeep p r i u c, fun hrst hinit r' hstep => ?_⟩
  obtain rfl := (stepsTo_iff r i r').1 hstep
  rw [initLatched_nextRegs r hrst, hinit, Bool.or_false]

end Sys2Proof
end

section
/-! PROOFS. The outputs as functions of the same cycle (rules R130 to R137): when a cycle is ready, and
what a request in its place would do. -/

namespace Sys2Proof.Machine

variable {p : Params} {r : Regs p} {i : Inputs p}

/-- A ready cycle is one of IDLE with no request of either kind (rule R134). -/
theorem ready_eq_true_iff :
    ready r i = true ↔ r.st = .idle ∧ i.start = false ∧ initPending r i = false := by
  simp [ready, and_assoc]

/-- A cycle with `init` has a pending request exactly before initialization (rule R122). -/
theorem initPending_of_init (h : i.init = true) : initPending r i = !r.initialized := by
  simp [initPending, h]

end Sys2Proof.Machine

namespace Sys2Proof

open Machine

/-- Settles O36: `ready` names what the selection of IDLE_WAIT asks for, and a request changes just the
part of it that it belongs to (`start` takes no part in `init_pending`). -/
theorem readyMeansAcceptedAtOnce : Obligations.ReadyMeansAcceptedAtOnce := by
  refine fun p r i => ⟨ready_eq_true_iff, fun hready hdiv => ?accepted⟩
  obtain ⟨hst, hstart, hip⟩ := ready_eq_true_iff.1 hready
  refine ⟨?wait, ?start, fun hfresh => ?init, fun hdone => ?ignored⟩
  case wait => exact opOf_eq_ok_iff_selects.2 ⟨hdiv, hst, hstart, hip⟩
  case start => exact opOf_eq_ok_iff_selects.2 ⟨hdiv, hst, rfl, hip⟩
  case init =>
    have hrequest : initPending r { i with init := true } = true := by
      rw [initPending_of_init rfl, hfresh, Bool.not_false]
    exact opOf_eq_ok_iff_selects.2 ⟨hdiv, hst, hrequest⟩
  case ignored =>
    exact ready_eq_true_iff.2 ⟨hst, hstart, initPending_eq_false_of_initialized hdone _⟩

end Sys2Proof
end

section
/-! PROOFS. The decoder is complete (rules R55, R57): the words it reads are the well-formed ones, and a
table word placed in a state is the selector word the next cycle builds. -/

namespace Sys2Proof

/-- The format T decoder answers exactly for the words without a tick and those with one of the six
state codes (rule R57). -/
theorem decodeT_isOk_iff (w : BitVec 9) :
    (∃ op, decodeT w = .ok op) ↔ (w.getLsbD 8 = true → (w.extractLsb' 5 3).toNat ≤ 5) := by
  simp only [decodeT]
  split
  case isFalse htick => exact ⟨fun _ h => absurd h htick, fun _ => ⟨_, rfl⟩⟩
  case isTrue htick =>
    split
    case h_7 hcode =>
      refine ⟨fun ⟨_, h⟩ => (by cases h), fun h => ?_⟩
      have hle := h htick
      interval_cases hc : (w.extractLsb' 5 3).toNat <;> simp_all
    all_goals exact ⟨fun _ _ => by omega, fun _ => ⟨_, rfl⟩⟩

/-- A word decodes to an operation exactly where it is well formed (rules R55, R57). -/
theorem decode_isOk_iff_wellFormed (w : SelWord) : (∃ op, decode w = .ok op) ↔ w.wellFormed = true := by
  cases w with
  | T w =>
    rw [decode, decodeT_isOk_iff, SelWord.wellFormed]
    cases w.getLsbD 8 <;> simp
  | D w => exact ⟨fun _ => rfl, fun _ => ⟨_, rfl⟩⟩
  | L w => exact ⟨fun _ => rfl, fun _ => ⟨_, rfl⟩⟩
  | R w =>
    rw [decode, decodeR, SelWord.wellFormed]
    cases w.getLsbD 0 <;> simp

/-- Settles O27: an operation is decoded exactly where its row fits, so a word fits the one row it is
decoded to, or no row. -/
theorem everyWordFitsOneEncoding : Obligations.EveryWordFitsOneEncoding := by
  refine fun w => ⟨fun hwf => ?decoded, fun hwf => ?refused⟩
  case decoded =>
    obtain ⟨op, hop⟩ := (decode_isOk_iff_wellFormed w).2 hwf
    refine ⟨op, hop, (decode_eq_ok_iff_fits w op).1 hop, fun op' hfits => ?_⟩
    have hop' := (decode_eq_ok_iff_fits w op').2 hfits
    rw [hop] at hop'
    exact (Except.ok.inj hop').symm
  case refused =>
    have hnone : ∀ op, decode w ≠ .ok op := fun op hop => by
      rw [(decode_isOk_iff_wellFormed w).1 ⟨op, hop⟩] at hwf
      cases hwf
    refine ⟨?error, fun op => ?_⟩
    case error =>
      cases hw : decode w with
      | ok op => exact absurd hw (hnone op)
      | error e => exact ⟨e, rfl⟩
    rw [← Bool.not_eq_true, ← decode_eq_ok_iff_fits]
    exact hnone op

/-- Settles O25, word by word. -/
theorem writtenWordsDecode : Obligations.WrittenWordsDecode := by
  exact ⟨rfl, rfl, rfl, rfl, rfl, rfl, rfl, rfl, rfl, rfl, rfl, rfl, rfl, rfl, rfl, rfl, rfl, rfl, rfl, rfl⟩

namespace Machine

/-- A counter placed for a selector bit is 0 exactly where the bit asks for it. -/
theorem forceZero_beq_zero {n : Nat} (hn : 1 ≤ n) (zero : Bool) (v : BitVec n) :
    (forceZero zero v == 0) = zero := by
  cases zero with
  | true => simp [forceZero]
  | false =>
    rw [forceZero, if_neg Bool.false_ne_true, beq_eq_false_iff_ne]
    split
    case isTrue hv => simp [Nat.ne_of_gt hn]
    case isFalse hv => exact hv

/-- The code of a state that a code names is that code (rules R50, R57). -/
theorem code_of_ofCode {c : BitVec 3} {st : FsmState} (h : FsmState.ofCode c = some st) : st.code = c := by
  revert c st
  decide

/-- A code up to 5 names a state (rule R57). -/
theorem ofCode_isSome {c : BitVec 3} (h : c.toNat ≤ 5) : (FsmState.ofCode c).isSome := by
  revert c
  decide

/-- What placing a format T word asks of `init_latched` and `initialized` makes `init_pending` the bit of
the word (rule R122). -/
theorem initPending_placeWord (s : State) (w : BitVec 9) :
    initPending (s.placeWord (.T w)).regs (s.placeWord (.T w)).inputs = w.getLsbD 3 := by
  simp only [State.placeWord, initPending]
  cases w.getLsbD 3 <;> rfl

/-- The tick of a state in which a format T word is placed is the one of the word. -/
theorem tick_placeWord (s : State) (w : BitVec 9) :
    (s.placeWord (.T w)).regs.tick = w.getLsbD 8 :=
  forceZero_beq_zero (one_le_width _) _ _

/-- A state in which a format T word with a state code is placed builds that word. -/
theorem selT_placeWord (s : State) (w : BitVec 9) (hcode : (w.extractLsb' 5 3).toNat ≤ 5) :
    (s.placeWord (.T w)).selT = w := by
  obtain ⟨st, hst⟩ := Option.isSome_iff_exists.1 (ofCode_isSome hcode)
  have hplaced : (s.placeWord (.T w)).regs.st = st := congrArg (Option.getD · s.regs.st) hst
  rw [formatT_ext_iff, State.selT, extractLsb'_packT, hplaced]
  simp only [getLsbD_packT]
  exact ⟨tick_placeWord s w, code_of_ofCode hst, rfl, initPending_placeWord s w, rfl,
    forceZero_beq_zero (one_le_width _) _ _, forceZero_beq_zero (one_le_width _) _ _⟩

/-- A placed format T word is the operation of the next cycle, also where its code is not looked at. -/
theorem tickOp_placeWord (s : State) {w : BitVec 9} {op : Instr} (h : decodeT w = .ok op) :
    tickOp (s.placeWord (.T w)).regs (s.placeWord (.T w)).inputs = op := by
  cases htick : w.getLsbD 8 with
  | true =>
    have hsel := selT_placeWord s w ((decodeT_isOk_iff w).1 ⟨op, h⟩ htick)
    have hdec := decodeT_selT (s.placeWord (.T w))
    rw [hsel, h] at hdec
    exact (Except.ok.inj hdec).symm
  | false =>
    simp only [decodeT, htick, Bool.false_eq_true, if_false, Except.ok.injEq] at h
    rw [tickOp, tick_placeWord, htick, ← h]
    rfl

/-- A placed format D word is the divider operation of the next cycle (rule R72). -/
theorem divOp_placeWord (s : State) (w : BitVec 2) :
    divOp (s.placeWord (.D w)).regs (s.placeWord (.D w)).inputs = decodeD w := by
  have htick : (s.placeWord (.D w)).regs.tick = w.getLsbD 1 :=
    forceZero_beq_zero (one_le_width _) _ _
  have hload : divLoad (s.placeWord (.D w)).regs (s.placeWord (.D w)).inputs = w.getLsbD 0 := by
    simp only [State.placeWord, divLoad]
    cases w.getLsbD 0 <;> rfl
  rw [divOp, htick, hload, decodeD]

/-- The operation a placed word decodes to is one of those of the next cycle (rule R54). -/
theorem mem_fetch_placeWord (s : State) {w : SelWord} {op : Instr} (h : decode w = .ok op) :
    ∃ ops, (s.placeWord w).fetch = .ok ops ∧ op ∈ ops := by
  cases w with
  | T w =>
    refine ⟨_, fetch_ops _ rfl, ?_⟩
    rw [tickOp_placeWord s h]
    exact List.mem_cons_self
  | D w =>
    refine ⟨_, fetch_ops _ rfl, ?_⟩
    rw [divOp_placeWord s, Except.ok.inj h]
    simp
  | L w =>
    refine ⟨_, fetch_ops _ rfl, ?_⟩
    rw [← Except.ok.inj h]
    simp [latchOp, State.placeWord, decodeL]
  | R w =>
    rw [decode, decodeR] at h
    split at h
    case isTrue hrst => exact ⟨_, fetch_reset _ hrst, by simp [Except.ok.inj h]⟩
    case isFalse => cases h

/-- Placing a word writes neither `sr` nor `data`, nor what is given of later cycles. -/
theorem placeWord_keeps (p : Params) (r : Regs p) (i : Inputs p) (u : List (Inputs p)) (c : Nat)
    (w : SelWord) :
    ∃ r' i', State.placeWord ⟨p, r, i, u, c⟩ w = ⟨p, r', i', u, c⟩ ∧ r'.sr = r.sr ∧ i'.data = i.data := by
  cases w <;> exact ⟨_, _, rfl, rfl, rfl⟩

end Machine

open Machine

/-- A table word reads as an operation through the selector word it stands for (log entry 6). -/
theorem decodeTableWord_eq_some {nbits w : Nat} {op : Instr} (h : decodeTableWord nbits w = some op) :
    ∃ sw, tableSelWord nbits w = some sw ∧ decode sw = .ok op := by
  unfold decodeTableWord at h
  split at h
  case h_1 => cases h
  case h_2 sw hsw =>
    split at h
    case h_1 op' hop => exact ⟨sw, hsw, hop.trans (congrArg _ (Option.some.inj h))⟩
    case h_2 => cases h

/-- Settles O29, format by format. -/
theorem placedWordIsExecuted : Obligations.PlacedWordIsExecuted := by
  intro p r i u c nbits w op h
  obtain ⟨sw, hsw, hop⟩ := decodeTableWord_eq_some h
  obtain ⟨r', i', hplace, hsr, hdata⟩ := placeWord_keeps p r i u c sw
  refine ⟨r', i', ?placed, hsr, hdata, hplace ▸ mem_fetch_placeWord ⟨p, r, i, u, c⟩ hop⟩
  case placed => simpa only [State.withFetchWord, State.placeTableWord, hsw] using hplace

end Sys2Proof
end

section
/-! PROOFS. The values (rules R7, R31, R104): the least width that holds a maximum, counting down with its
wrap, and the segments as the whole of a value. -/

namespace Sys2Proof

/-- No fewer bits hold the maximum (rule R7, with the floor of decision D9). -/
theorem width_le_of_lt_two_pow {m n : Nat} (hn : 1 ≤ n) (h : m < 2 ^ n) : width m ≤ n := by
  unfold width
  split
  case isTrue => exact hn
  case isFalse hm => exact (Nat.log2_lt hm).2 h

/-- Counting down, with the wrap below 0 (rule R104, decision D9). -/
theorem toNat_sub_one_wrap {n : Nat} (x : BitVec n) :
    (x - 1).toNat = if x.toNat = 0 then 2 ^ n - 1 else x.toNat - 1 := by
  split
  case isTrue hzero =>
    obtain rfl : x = 0#n := BitVec.eq_of_toNat_eq hzero
    have hwrap : 0#n - 1 = BitVec.allOnes n := (BitVec.zero_sub _).trans BitVec.neg_one_eq_allOnes
    rw [hwrap, BitVec.toNat_allOnes]
  case isFalse hpos => exact toNat_sub_one x (Nat.one_le_iff_ne_zero.2 hpos)

/-- Every bit of a value lies in a segment (rule R31). -/
theorem Params.div_W_lt {p : Params} {j : Nat} (hj : j < p.L) : j / p.W < p.C :=
  Nat.div_lt_of_lt_mul (by rwa [Nat.mul_comm])

namespace Machine

/-- A value is its segments (rule R31). -/
theorem eq_of_seg_eq {p : Params} {v v' : BitVec p.L} (h : ∀ k < p.C, seg k v = seg k v') : v = v' := by
  apply BitVec.eq_of_getLsbD_eq
  intro j hj
  have hb : j % p.W < p.W := Nat.mod_lt _ p.W_pos
  have hbit := congrArg (·.getLsbD (j % p.W)) (h _ (Params.div_W_lt hj))
  simpa only [getLsbD_seg _ _ hb, Nat.div_add_mod'] using hbit

/-- The constant `W - 1` fits `bit_cnt` (rule R14). -/
theorem toNat_lastBit (p : Params) : (lastBit p).toNat = p.W - 1 := toNat_ofNat_width le_rfl

/-- The constant `C` fits `word_cnt` (rule R15). -/
theorem toNat_allWords (p : Params) : (allWords p).toNat = p.C := toNat_ofNat_width le_rfl

/-- The constant 1 fits `word_cnt` (rule R83). -/
theorem toNat_oneWord (p : Params) : (oneWord p).toNat = 1 := toNat_ofNat_width p.C_pos

end Machine

open Machine

/-- Settles O32, bit by bit. -/
theorem segmentsAreTheData : Obligations.SegmentsAreTheData :=
  fun _ v _ => ⟨fun k _ _ hb => getLsbD_seg k v hb, eq_of_seg_eq⟩

/-- Settles O33: every constant is within the maximum its width is made for. -/
theorem countersHoldTheirConstants : Obligations.CountersHoldTheirConstants := by
  refine ⟨fun m => ⟨one_le_width m, lt_two_pow_width m, fun _ => width_le_of_lt_two_pow⟩, fun p => ?_⟩
  exact ⟨toNat_lastBit p, toNat_allWords p, toNat_oneWord p, toNat_divReloadValue p,
    fun r => ⟨toNat_sub_one_wrap r.bitCnt, toNat_sub_one_wrap r.wordCnt⟩⟩

end Sys2Proof
end

section
/-! PROOFS. The derived signals and the outputs (rules R21, R130 to R135), and the registers after reset
(rules R22, R160). -/

namespace Sys2Proof.Machine

variable {p : Params}

/-- A counter is 0 exactly where it holds the number 0. -/
theorem beq_zero_iff_toNat {n : Nat} (x : BitVec n) : (x == 0) = true ↔ x.toNat = 0 := by
  rw [beq_iff_eq, ← BitVec.toNat_inj]
  simp

/-- `init_pending` by its definition (rule R122). -/
theorem initPending_eq_true_iff (r : Regs p) (i : Inputs p) :
    initPending r i = true ↔ (i.init = true ∨ r.initLatched = true) ∧ r.initialized = false := by
  simp [initPending]

/-- A pending init request is in the latch, or gets into it in this cycle (rule R122). -/
theorem initLatched_of_pending {r : Regs p} {i : Inputs p} (h : initPending r i = true) :
    (r.initLatched || i.init) = true := by
  rw [Bool.or_eq_true]
  exact ((initPending_eq_true_iff r i).1 h).1.symm

/-- `req` by its definition (rule R80). -/
theorem req_eq_true_iff (r : Regs p) (i : Inputs p) :
    req r i = true ↔ i.start = true ∨ initPending r i = true := by
  simp [req]

/-- `div_load`, state by state (rule R72). -/
theorem divLoad_eq_true_iff (r : Regs p) (i : Inputs p) :
    divLoad r i = true ↔ (r.st = .idle ∧ req r i = true) ∨ r.st = .setup ∨ r.st = .hold ∨
      (r.st = .busyHigh ∧ i.busy = true ∧ r.wordCnt.toNat ≠ 0) := by
  unfold divLoad
  cases r.st
  case busyHigh =>
    simp [Regs.wordZero, ← beq_zero_iff_toNat]
  all_goals simp

/-- The load pulse (rule R103). -/
theorem srLoad_eq_true_iff (r : Regs p) (i : Inputs p) :
    srLoad r i = true ↔ r.divCnt.toNat = 0 ∧ r.st = .idle ∧ req r i = true := by
  rw [srLoad, Bool.and_eq_true, Bool.and_eq_true, Regs.tick, beq_zero_iff_toNat, decide_eq_true_iff,
    and_assoc]

/-- The first bit on the line after reset is 0 (rule R160). -/
theorem sdo_reset : (Regs.reset p).sdo = false := by simp [Regs.sdo]

/-- After reset an init request is pending only from the input of the cycle (rule R22). -/
theorem initPending_reset (i : Inputs p) : initPending (Regs.reset p) i = i.init := by
  simp [initPending]

/-- After reset the core is ready without a request (rule R22). -/
theorem ready_reset (i : Inputs p) : ready (Regs.reset p) i = !(i.start || i.init) := by
  simp [ready, initPending_reset]

/-- The outputs of a cycle right after reset (rule R160). -/
theorem outputs_reset (i : Inputs p) (u : List (Inputs p)) (c : Nat) :
    State.outputs ⟨p, Regs.reset p, i, u, c⟩ =
      { ready := !(i.start || i.init), initialized := false, sclk := false, csN := true, sdo := false } := by
  simp only [State.outputs, ready_reset, sdo_reset]
  rfl

end Sys2Proof.Machine

namespace Sys2Proof

open Machine

/-- Settles O34, signal by signal. -/
theorem derivedSignals : Obligations.DerivedSignals := fun _ r i =>
  ⟨beq_zero_iff_toNat r.divCnt, initPending_eq_true_iff r i, req_eq_true_iff r i,
    beq_zero_iff_toNat r.bitCnt, beq_zero_iff_toNat r.wordCnt, divLoad_eq_true_iff r i,
    srLoad_eq_true_iff r i⟩

/-- Settles O35, row by row of the table. -/
theorem outputTable : Obligations.OutputTable := by
  rintro p ⟨st, d, sr, b, w, il, ini⟩ i u c
  cases st
  case idle => simp [State.outputs, ready, Regs.sclk, Regs.csN, Regs.sdo]
  all_goals rfl

/-- Settles O37: `ready` alone reads inputs, and of these `start` and `init`. -/
theorem outputsOfTheSameCycle : Obligations.OutputsOfTheSameCycle := by
  intro p r i j u v c d
  refine ⟨rfl, rfl, rfl, rfl, fun hstart hinit => ?_⟩
  simp only [State.outputs, ready, initPending, hstart, hinit]

/-- Settles O38. -/
theorem resetState : Obligations.ResetState :=
  ⟨rfl, rfl, rfl, fun _ i => ⟨rfl, initPending_reset i, ready_reset i, rfl, rfl, sdo_reset⟩⟩

/-- Settles O20: the registers after RESET are those of rule R22. -/
theorem resetClearsEverything : Obligations.ResetClearsEverything := by
  intro p r i u c
  refine ⟨exec_eq .reset p r i u c, fun hrst => ⟨?step, fun j => ⟨outputs_reset j u c, ?again⟩⟩⟩
  case step => rw [step_eq, nextRegs_reset r hrst]; rfl
  case again =>
    intro hagain r' hstep
    rw [(stepsTo_iff _ _ _).1 hstep, nextRegs_reset _ hagain]
    rfl

end Sys2Proof
end

section
/-! PROOFS. The three operations of a cycle (rules R39, R54): each answers a next state and writes its own
registers, so that their order does not matter. -/

namespace Sys2Proof.Machine

variable {p : Params} {op : Instr}

/-- A format D operation is an update of `div_cnt` alone (rules R74 to R76). -/
theorem opRegs_formatD {w : BitVec 2} (h : encode op = .D w) (i : Inputs p) :
    ∃ f : BitVec p.divWidth → BitVec p.divWidth, ∀ r : Regs p,
      opRegs op r i = r.setDiv (f r.divCnt) := by
  cases op
  case divCount => exact ⟨(· - 1), fun _ => rfl⟩
  case divReload => exact ⟨fun _ => divReloadValue p, fun _ => rfl⟩
  case divFreeze => exact ⟨id, fun _ => rfl⟩
  all_goals cases h

/-- A format L operation keeps the latch or sets it, and writes nothing else (rules R120, R121). -/
theorem opRegs_formatL {w : BitVec 1} (h : encode op = .L w) (i : Inputs p) :
    (∀ r : Regs p, opRegs op r i = r) ∨ ∀ r : Regs p, opRegs op r i = r.latchInit := by
  cases op
  case latchKeep => exact .inl fun _ => rfl
  case latchSet => exact .inr fun _ => rfl
  all_goals cases h

/-- A format T operation neither reads nor writes `div_cnt` and `init_latched` (rules R81 to R94). -/
theorem opRegs_formatT {w : BitVec 9} (h : encode op = .T w) (r : Regs p) (i : Inputs p) :
    (opRegs op r i).divCnt = r.divCnt ∧
      (∀ d, opRegs op (r.setDiv d) i = (opRegs op r i).setDiv d) ∧
      opRegs op r.latchInit i = (opRegs op r i).latchInit := by
  cases op
  case divCount | divReload | divFreeze | latchKeep | latchSet | reset => cases h
  all_goals exact ⟨rfl, fun _ => rfl, rfl⟩

/-- Operations of different formats may run in either order. -/
theorem opRegs_comm {t d l : Instr} {wt : BitVec 9} {wd : BitVec 2} {wl : BitVec 1}
    (ht : encode t = .T wt) (hd : encode d = .D wd) (hl : encode l = .L wl) (r : Regs p) (i : Inputs p) :
    opRegs d (opRegs t r i) i = opRegs t (opRegs d r i) i ∧
      opRegs l (opRegs t r i) i = opRegs t (opRegs l r i) i ∧
      opRegs l (opRegs d r i) i = opRegs d (opRegs l r i) i := by
  obtain ⟨f, hf⟩ := opRegs_formatD hd i
  obtain ⟨hdiv, hsetDiv, hlatch⟩ := opRegs_formatT ht r i
  obtain hkeep | hset := opRegs_formatL hl i
  · simp only [hkeep, hf, hsetDiv, hdiv, and_self]
  · simp only [hset, hlatch, hf, hsetDiv, hdiv, true_and]
    rfl

/-- Running operations leaves the registers that they leave one after another. -/
theorem runOps_eq (ops : List Instr) (p : Params) (r : Regs p) (i : Inputs p) (u : List (Inputs p))
    (c : Nat) :
    runOps ops ⟨p, r, i, u, c⟩ = .next ⟨p, ops.foldl (fun x op => opRegs op x i) r, i, u, c⟩ := by
  induction ops generalizing r with
  | nil => rfl
  | cons op rest ih => rw [runOps, exec_eq, List.foldl_cons]; exact ih _

end Sys2Proof.Machine

namespace Sys2Proof

open Machine

/-- Settles O22: the three are updates of different registers, and any two of them commute. -/
theorem operationsOfACycleCommute : Obligations.OperationsOfACycleCommute := by
  rintro t d l wt wd wl ht hd hl ⟨p, r, i, u, c⟩ ops hperm
  rw [runOps_eq, runOps_eq]
  congr 2
  refine (hperm.symm.foldl_eq' (fun x hx y hy z => ?_) r).symm
  obtain ⟨htd, htl, hdl⟩ := opRegs_comm ht hd hl z i
  simp only [List.mem_cons, List.not_mem_nil, or_false] at hx hy
  obtain rfl | rfl | rfl := hx <;> obtain rfl | rfl | rfl := hy
  exacts [rfl, htd, htl, htd.symm, rfl, hdl, htl.symm, hdl.symm, rfl]

/-- Settles O21. -/
theorem stepRunsTheDecodedOperations : Obligations.StepRunsTheDecodedOperations := by
  rintro ⟨p, r, i, u, c⟩
  refine ⟨fun hrst t d l s₁ s₂ s₃ ht hd hl h₁ h₂ h₃ => ?three, fun hrst op s₁ hop h₁ => ?reset,
    fun j v => rfl, ⟨_, rfl⟩⟩
  case three =>
    have hr : decode (.R (State.selR ⟨p, r, i, u, c⟩)) = .error .noReset :=
      (decodeR_pack i.rst).trans (if_neg (Bool.not_eq_true _ ▸ hrst))
    simp only [step, runCycle, State.fetch, hr, ht, hd, hl, runOps, h₁, h₂, h₃]
  case reset =>
    simp only [step, runCycle, State.fetch, hop, runOps, h₁]

/-- Settles O23. -/
theorem everyCycleHasANextState : Obligations.EveryCycleHasANextState := by
  refine ⟨fun op ⟨p, r, i, u, c⟩ => ⟨_, exec_eq op p r i u c⟩, fun ⟨p, r, i, u, c⟩ => ?_⟩
  obtain ⟨j, v, hedge⟩ := State.clockEdge_keeps p (nextRegs r i) i u c
  exact ⟨_, (step_eq p r i u c).trans (congrArg _ hedge), rfl⟩

/-- Settles O4: the latch holds the request, or `init` sets it in this cycle. -/
theorem startInitLoadsSegmentZero : Obligations.StartInitLoadsSegmentZero := by
  intro p r i u c
  refine ⟨exec_eq .startInit p r i u c, fun hrst hdiv hst hip => ?_⟩
  refine ⟨?ready, ((initPending_eq_true_iff r i).1 hip).2, ?step⟩
  case ready => simp [ready, hip]
  case step =>
    refine step_of_selects .startInit hrst ⟨hdiv, hst, hip⟩ ?_
    rw [cycleRegs, initLatched_of_pending hip]
    rfl

/-- Settles O14: the latch holds the request, or `init` sets it in this cycle. -/
theorem busyhighDoneInitSetsInitialized : Obligations.BusyhighDoneInitSetsInitialized := by
  intro p r i u c
  refine ⟨exec_eq .busyhighDoneInit p r i u c, initPending_eq_false_of_initialized rfl,
    fun hrst hdiv hst hbusy hwords hip => ?step⟩
  refine step_of_selects .busyhighDoneInit hrst ⟨hdiv, hst, hbusy, hwords, hip⟩ ?_
  rw [cycleRegs, initLatched_of_pending hip]
  rfl

end Sys2Proof
end

section
/-! PROOFS. What a cycle does not look at (rules R43, R95, R172): an input reaches the registers through
the three operations the cycle selects and the operand of the load alone. -/

namespace Sys2Proof.Machine

variable {p : Params} {r : Regs p} {i j : Inputs p}

/-- Two cycles of the same registers end alike if their inputs agree in reset and `init`, select the same
tick-gated and divider operations and give the same operand. -/
theorem nextRegs_congr (hrst : j.rst = i.rst) (hinit : j.init = i.init) (hop : tickOp r j = tickOp r i)
    (hload : divLoad r j = divLoad r i) (hregs : opRegs (tickOp r i) r j = opRegs (tickOp r i) r i) :
    nextRegs r j = nextRegs r i := by
  simp only [nextRegs, divNext, hrst, hinit, hop, hload, hregs]

/-- No operation reads `start` or `busy`. -/
theorem opRegs_withStart_withBusy (op : Instr) (r : Regs p) (i : Inputs p) (b : Bool) :
    opRegs op r { i with start := b } = opRegs op r i ∧
      opRegs op r { i with busy := b } = opRegs op r i := by
  cases op <;> exact ⟨rfl, rfl⟩

/-- `start` is looked at in IDLE alone, and only without an init request (rules R80, R95). -/
theorem nextRegs_withStart (b : Bool) (h : r.st ≠ .idle ∨ initPending r i = true) :
    nextRegs r { i with start := b } = nextRegs r i := by
  have hip : initPending r { i with start := b } = initPending r i := rfl
  refine nextRegs_congr rfl rfl ?op ?load (opRegs_withStart_withBusy _ r i b).1
  case op =>
    simp only [tickOp, hip]
    cases hst : r.st
    case idle => simp [h.resolve_left (not_not.2 hst)]
    all_goals rfl
  case load =>
    simp only [divLoad, req, hip]
    cases hst : r.st
    case idle => simp [h.resolve_left (not_not.2 hst)]
    all_goals rfl

/-- `busy` is looked at in BUSY_LOW and BUSY_HIGH alone (rule R172). -/
theorem nextRegs_withBusy (b : Bool) (hlow : r.st ≠ .busyLow) (hhigh : r.st ≠ .busyHigh) :
    nextRegs r { i with busy := b } = nextRegs r i := by
  refine nextRegs_congr rfl rfl ?op ?load (opRegs_withStart_withBusy _ r i b).2
  case op =>
    unfold tickOp
    cases hst : r.st
    case busyLow => exact absurd hst hlow
    case busyHigh => exact absurd hst hhigh
    all_goals rfl
  case load =>
    unfold divLoad
    cases hst : r.st
    case busyHigh => exact absurd hst hhigh
    all_goals rfl

/-- The load pulse is 1 in the cycles of START_NORMAL and START_INIT (rule R103). -/
theorem srLoad_of_selects {op : Instr} (h : Selects r i op) (hop : op = .startNormal ∨ op = .startInit) :
    srLoad r i = true := by
  rw [srLoad_eq_true_iff, req_eq_true_iff]
  obtain rfl | rfl := hop
  case inl =>
    obtain ⟨hdiv, hst, hstart, -⟩ := h
    exact ⟨by simp [hdiv], hst, .inl hstart⟩
  case inr =>
    obtain ⟨hdiv, hst, hip⟩ := h
    exact ⟨by simp [hdiv], hst, .inr hip⟩

/-- `data` is read by the load alone (rule R43, decision D17). -/
theorem nextRegs_withData (v : BitVec p.L) (h : srLoad r i = false) :
    nextRegs r { i with data := v } = nextRegs r i := by
  refine nextRegs_congr rfl rfl rfl rfl ?operand
  have hload := srLoad_of_selects (selects_tickOp r i)
  rw [h] at hload
  cases hop : tickOp r i
  case startNormal => exact absurd (hload (.inl hop)) Bool.false_ne_true
  case startInit => exact absurd (hload (.inr hop)) Bool.false_ne_true
  all_goals rfl

end Sys2Proof.Machine

namespace Sys2Proof

open Machine

/-- Settles O44: `start` reaches neither the choice of an operation nor the divider. -/
theorem startIsIgnoredOutsideIdle : Obligations.StartIsIgnoredOutsideIdle := by
  intro p r i b r₁ r₂ h hstep₁ hstep₂
  rw [(stepsTo_iff _ _ _).1 hstep₁, (stepsTo_iff _ _ _).1 hstep₂, nextRegs_withStart b h]

/-- Settles O45: a cycle without the load pulse selects no operation that has `data` as its operand. -/
theorem dataIsReadOnlyByTheLoad : Obligations.DataIsReadOnlyByTheLoad := by
  intro p r i v r₁ r₂ h hstep₁ hstep₂
  refine ⟨?_, fun _ _ => rfl⟩
  rw [(stepsTo_iff _ _ _).1 hstep₁, (stepsTo_iff _ _ _).1 hstep₂, nextRegs_withData v h]

/-- Settles O46: `busy` reaches neither the choice of an operation nor the divider. -/
theorem busyIsLookedAtOnlyInBusyStates : Obligations.BusyIsLookedAtOnlyInBusyStates := by
  intro p r i b r₁ r₂ hlow hhigh hstep₁ hstep₂
  rw [(stepsTo_iff _ _ _).1 hstep₁, (stepsTo_iff _ _ _).1 hstep₂, nextRegs_withBusy b hlow hhigh]

end Sys2Proof
end

section
/-! PROOFS. What a cycle changes (rules R41, R96, R105, R106): the registers after a cycle, register by
register and operation by operation. -/

namespace Sys2Proof.Machine

variable {p : Params} {r : Regs p} {i : Inputs p} {op : Instr}

/-- The registers after a cycle that selects `op`. -/
theorem nextRegs_of_selects (hrst : i.rst = false) (h : Selects r i op) :
    nextRegs r i = cycleRegs op r i := by
  rw [nextRegs_snapshot r hrst, tickOp_of_selects h, divOp_of_selects h, opRegs_latchOp, cycleRegs]

/-- The divider after a cycle: it counts, reloads or stays at 0 (rules R74 to R76). -/
theorem divCnt_nextRegs (r : Regs p) (hrst : i.rst = false) :
    (nextRegs r i).divCnt =
      if ¬ r.tick then r.divCnt - 1 else if divLoad r i then divReloadValue p else 0 := by
  cases ht : r.tick with
  | false => simpa using divCnt_nextRegs_count hrst ht
  | true =>
    cases hload : divLoad r i with
    | false => simpa using divCnt_nextRegs_freeze hrst ht hload
    | true => simpa using divCnt_nextRegs_reload hrst ht hload

/-- A cycle changes `initialized` only by BUSYHIGH_DONE_INIT, which sets it (rule R17). -/
theorem initialized_nextRegs (r : Regs p) (hrst : i.rst = false) :
    (nextRegs r i).initialized = (r.initialized || decide (tickOp r i = .busyhighDoneInit)) := by
  rw [nextRegs_of_selects hrst (selects_tickOp r i), cycleRegs]
  have hsel := selects_tickOp r i
  cases hop : tickOp r i
  case divCount | divReload | divFreeze | latchKeep | latchSet | reset =>
    rw [hop] at hsel
    cases hsel
  all_goals simp [opRegs]

/-- BUSYHIGH_DONE_INIT is selected before initialization only (rule R93). -/
theorem initialized_eq_false_of_doneInit (h : tickOp r i = .busyhighDoneInit) : r.initialized = false := by
  have hsel := selects_tickOp r i
  rw [h] at hsel
  obtain ⟨-, -, -, -, hip⟩ := hsel
  exact ((initPending_eq_true_iff r i).1 hip).2

/-- A cycle without a tick stays in its state (rule R94). -/
theorem st_nextRegs_hold (hrst : i.rst = false) (ht : r.tick = false) : (nextRegs r i).st = r.st := by
  rw [nextRegs_hold hrst ht]

/-- The edges of the state machine (rule R96). -/
def fsmEdges : List (FsmState × FsmState) :=
  [(.idle, .idle), (.idle, .setup), (.setup, .hold), (.setup, .delay), (.hold, .setup),
    (.delay, .busyLow), (.busyLow, .busyLow), (.busyLow, .busyHigh), (.busyHigh, .busyHigh),
    (.busyHigh, .setup), (.busyHigh, .idle)]

/-- A tick cycle goes along an edge (rule R96). -/
theorem mem_fsmEdges_of_tick (hrst : i.rst = false) (ht : r.tick = true) :
    (r.st, (nextRegs r i).st) ∈ fsmEdges := by
  rw [nextRegs_tick hrst ht]
  cases hst : r.st
  case idle => simp only; split_ifs <;> simp [fsmEdges]
  case setup => simp only; split_ifs <;> simp [fsmEdges]
  case busyLow => simp only; split_ifs <;> simp [fsmEdges]
  case busyHigh => simp only; split_ifs <;> simp [fsmEdges]
  case hold | delay => simp [fsmEdges]

/-- A tick cycle from which an edge is taken: `more` says whether bits and words are left. -/
def edgeRegs (st : FsmState) (more : Bool) : Regs .scenario :=
  { Regs.reset .scenario with
    st := st, bitCnt := if more then 1 else 0, wordCnt := if more then 1 else 0 }

/-- Every edge is taken by some tick cycle, with the request and the level of `busy` that take it. -/
theorem edge_is_taken : ∀ e ∈ fsmEdges, ∃ more start busy : Bool,
    (nextRegs (edgeRegs e.1 more)
      { Inputs.quiet .scenario with start := start, busy := busy }).st = e.2 := by
  decide

end Sys2Proof.Machine

namespace Sys2Proof

open Machine

/-- Settles O42: the conditions of the operation that the cycle selects decide every distinction. -/
theorem perRegisterView : Obligations.PerRegisterView := by
  intro p r i r' hrst hstep
  obtain rfl := (stepsTo_iff _ _ _).1 hstep
  have hsel := selects_tickOp r i
  have hnext := nextRegs_of_selects hrst hsel
  refine ⟨?sr, ?bits, ?words, ?done, divCnt_nextRegs r hrst, initLatched_nextRegs r hrst⟩
  all_goals
    rw [hnext]
    clear hnext hstep
    cases hop : tickOp r i <;> rw [hop] at hsel
    case divCount | divReload | divFreeze | latchKeep | latchSet | reset => cases hsel
    all_goals simp_all [Selects, cycleRegs, opRegs, Regs.tick, Regs.wordZero, loadNormal]

/-- Settles O43: the cycles that take the edges are those of the scenario's core. -/
theorem transitionGraph : Obligations.TransitionGraph := by
  refine ⟨fun a b => ⟨?follows, fun hedge => ?taken⟩, fun p r i r' hrst ht hstep => ?stays⟩
  case follows =>
    rintro ⟨p, r, i, r', hrst, ht, rfl, hstep, rfl⟩
    obtain rfl := (stepsTo_iff _ _ _).1 hstep
    exact mem_fsmEdges_of_tick hrst ht
  case taken =>
    obtain ⟨more, start, busy, hst⟩ := edge_is_taken (a, b) hedge
    exact ⟨_, edgeRegs a more, _, _, rfl, rfl, rfl, (stepsTo_iff _ _ _).2 rfl, hst⟩
  case stays =>
    obtain rfl := (stepsTo_iff _ _ _).1 hstep
    exact st_nextRegs_hold hrst ht

/-- Settles O48: the operation that sets `initialized` is not selected where it is set already. -/
theorem initFlagsAreSticky : Obligations.InitFlagsAreSticky := by
  intro p r i r' hrst hstep
  obtain rfl := (stepsTo_iff _ _ _).1 hstep
  rw [initialized_nextRegs r hrst, opOf_eq, Except.ok.injEq]
  refine ⟨initLatched_nextRegs r hrst, fun hdone => by rw [hdone, Bool.true_or], ?changes⟩
  case changes =>
    refine ⟨fun hne => ?_, fun hop => ?_⟩
    · by_contra hop
      simp [hop] at hne
    · simp [hop, initialized_eq_false_of_doneInit hop]

/-- Settles O50: the pins are read off the registers before and after, operation by operation. -/
theorem edgesOfTheSerialPins : Obligations.EdgesOfTheSerialPins := by
  intro p r i r' op hrst hstep hop
  have hsel := opOf_eq_ok_iff_selects.1 hop
  rw [(stepsTo_iff _ _ _).1 hstep, nextRegs_of_selects hrst hsel]
  refine ⟨fun hne => ?sdo, ?_⟩
  case sdo =>
    by_contra hload
    cases op
    case startNormal | startInit | holdShift | delayEnd => simp at hload
    case reset => cases hsel
    all_goals exact hne rfl
  cases op
  case divCount | divReload | divFreeze | latchKeep | latchSet | reset => cases hsel
  case fsmHold => cases hst : r.st <;> simp [cycleRegs, opRegs, Regs.sclk, Regs.csN, hst]
  case holdShift | delayEnd =>
    obtain ⟨-, hst⟩ := hsel
    simp [cycleRegs, opRegs, Regs.sclk, Regs.csN, hst]
  all_goals
    obtain ⟨-, hst, -⟩ := hsel
    simp [cycleRegs, opRegs, Regs.sclk, Regs.csN, hst]

/-- Settles O51: the operations that end a transfer freeze the divider at 0 and go to IDLE. -/
theorem requestAfterATransferIsAccepted : Obligations.RequestAfterATransferIsAccepted := by
  intro p r i r' j hrst hop hstep
  obtain rfl := (stepsTo_iff _ _ _).1 hstep
  have hidle : (nextRegs r i).st = .idle ∧ (nextRegs r i).divCnt = 0 := by
    rcases hop with hop | hop
    all_goals
      have hsel := opOf_eq_ok_iff_selects.1 hop
      obtain ⟨hfrozen, -⟩ := id hsel
      rw [nextRegs_of_selects hrst hsel]
      exact ⟨rfl, hfrozen⟩
  obtain ⟨hst, hdiv⟩ := hidle
  refine ⟨hst, (tick_iff _).2 hdiv, fun hip => ?init, fun hip hstart => ?normal, fun hready => ?wait⟩
  case init => exact opOf_eq_ok_iff_selects.2 ⟨hdiv, hst, hip⟩
  case normal => exact opOf_eq_ok_iff_selects.2 ⟨hdiv, hst, hstart, hip⟩
  case wait =>
    obtain ⟨-, hstart, hip⟩ := ready_eq_true_iff.1 hready
    exact opOf_eq_ok_iff_selects.2 ⟨hdiv, hst, hstart, hip⟩

end Sys2Proof
end

section
/-! PROOFS. The invariant (rule R27, with what its proof needs of rules R107 and R108): the registers after
reset have it, and every operation a cycle selects keeps each of its parts. -/

namespace Sys2Proof.Machine

variable {p : Params} {r : Regs p} {i : Inputs p} {op : Instr}

/-- The registers after reset have the invariant. -/
theorem inv_reset (p : Params) : (Regs.reset p).Inv where
  facts :=
    { div_range := by simp
      bit_range := by simp
      word_range := by simp
      polled_frozen := fun _ => rfl
      hold_bits := fun h => by cases h
      timed_words := fun h => by rcases h with h | h | h <;> cases h
      idle_empty := fun _ => rfl
      done_not_pending := fun h => initPending_eq_false_of_initialized h }
  delay_bits := fun h => by cases h
  gap_words := fun h => by rcases h with h | h <;> cases h
  drained := fun j _ => by simp

/-- The divider stays in its range: it counts from at least 1, reloads, or stays (rules R74 to R76). -/
theorem div_range_of_selects (hdiv : r.divCnt.toNat ≤ p.N - 1) (hsel : Selects r i op) :
    (cycleRegs op r i).divCnt.toNat ≤ p.N - 1 := by
  cases op
  case divCount | divReload | divFreeze | latchKeep | latchSet | reset => cases hsel
  case fsmHold =>
    have := toNat_sub_one r.divCnt (one_le_toNat hsel)
    simp only [cycleRegs, opRegs, divPartner]
    omega
  case startNormal | startInit | setupNext | setupLast | holdShift | busyhighNext =>
    exact (toNat_divReloadValue p).le
  all_goals exact hdiv

/-- The bits left stay in their range: they are reloaded, or counted from at least 1 (rule R27, item 3). -/
theorem bit_range_of_selects (hinv : r.Inv) (hsel : Selects r i op) :
    (cycleRegs op r i).bitCnt.toNat ≤ p.W - 1 := by
  have hbits := hinv.facts.bit_range
  cases op
  case divCount | divReload | divFreeze | latchKeep | latchSet | reset => cases hsel
  case holdShift =>
    have := toNat_sub_one r.bitCnt (hinv.facts.hold_bits hsel.2)
    simp only [cycleRegs, opRegs]
    omega
  case idleWait | startNormal | startInit | busyhighNext | busyhighDone | busyhighDoneInit =>
    exact (toNat_lastBit p).le
  all_goals exact hbits

/-- The words left stay in their range: they are loaded, or counted from at least 1 (rule R27, item 4). -/
theorem word_range_of_selects (hinv : r.Inv) (hsel : Selects r i op) :
    (cycleRegs op r i).wordCnt.toNat ≤ p.C := by
  have hwords := hinv.facts.word_range
  cases op
  case divCount | divReload | divFreeze | latchKeep | latchSet | reset => cases hsel
  case delayEnd =>
    have := toNat_sub_one r.wordCnt (hinv.facts.timed_words (.inr (.inr hsel.2)))
    simp only [cycleRegs, opRegs]
    omega
  case idleWait | startNormal => exact (toNat_allWords p).le
  case startInit => exact (toNat_oneWord p).trans_le p.C_pos
  all_goals exact hwords

/-- A polled state is entered, or stayed in, with the divider frozen at 0 (rule R27, item 2). -/
theorem polled_frozen_of_selects (hinv : r.Inv) (hsel : Selects r i op)
    (hst : (cycleRegs op r i).st = .idle ∨ (cycleRegs op r i).st = .busyLow ∨
      (cycleRegs op r i).st = .busyHigh) : (cycleRegs op r i).divCnt = 0 := by
  cases op
  case divCount | divReload | divFreeze | latchKeep | latchSet | reset => cases hsel
  case fsmHold => exact absurd (hinv.facts.polled_frozen hst) hsel
  case startNormal | startInit | setupNext | setupLast | holdShift | busyhighNext =>
    simp [cycleRegs, opRegs] at hst
  all_goals exact hsel.1

/-- HOLD is entered with bits left, DELAY with none (rules R84, R85). -/
theorem hold_delay_bits_of_selects (hinv : r.Inv) (hsel : Selects r i op) :
    ((cycleRegs op r i).st = .hold → 1 ≤ (cycleRegs op r i).bitCnt.toNat) ∧
      ((cycleRegs op r i).st = .delay → (cycleRegs op r i).bitCnt = 0) := by
  cases op
  case divCount | divReload | divFreeze | latchKeep | latchSet | reset => cases hsel
  case fsmHold => exact ⟨hinv.facts.hold_bits, hinv.delay_bits⟩
  case setupNext =>
    obtain ⟨-, -, hbits⟩ := hsel
    exact ⟨fun _ => one_le_toNat hbits, by simp [cycleRegs, opRegs]⟩
  case setupLast =>
    obtain ⟨-, -, hbits⟩ := hsel
    exact ⟨by simp [cycleRegs, opRegs], fun _ => hbits⟩
  all_goals simp [cycleRegs, opRegs]

/-- A word is begun with words left, which it keeps to its end (rule R27, item 4). -/
theorem timed_words_of_selects (hinv : r.Inv) (hsel : Selects r i op)
    (hst : (cycleRegs op r i).st = .setup ∨ (cycleRegs op r i).st = .hold ∨
      (cycleRegs op r i).st = .delay) : 1 ≤ (cycleRegs op r i).wordCnt.toNat := by
  have htimed := hinv.facts.timed_words
  cases op
  case divCount | divReload | divFreeze | latchKeep | latchSet | reset => cases hsel
  case fsmHold => exact htimed hst
  case startNormal => exact p.C_pos.trans_eq (toNat_allWords p).symm
  case startInit => exact (toNat_oneWord p).ge
  case setupNext | setupLast => exact htimed (.inl hsel.2.1)
  case holdShift => exact htimed (.inr (.inl hsel.2))
  case busyhighNext =>
    obtain ⟨-, -, -, hwords⟩ := hsel
    exact one_le_toNat hwords
  all_goals simp [cycleRegs, opRegs] at hst

/-- Between words one word less is left than before the last one (rules R15, R87). -/
theorem gap_words_of_selects (hinv : r.Inv) (hsel : Selects r i op)
    (hst : (cycleRegs op r i).st = .busyLow ∨ (cycleRegs op r i).st = .busyHigh) :
    (cycleRegs op r i).wordCnt.toNat ≤ p.C - 1 := by
  have hgap := hinv.gap_words
  cases op
  case divCount | divReload | divFreeze | latchKeep | latchSet | reset => cases hsel
  case fsmHold => exact hgap hst
  case delayEnd =>
    have := toNat_sub_one r.wordCnt (hinv.facts.timed_words (.inr (.inr hsel.2)))
    have := hinv.facts.word_range
    simp only [cycleRegs, opRegs]
    omega
  case busylowWait | busylowAck => exact hgap (.inl hsel.2.1)
  case busyhighWait => exact hgap (.inr hsel.2.1)
  all_goals simp [cycleRegs, opRegs] at hst

/-- IDLE is entered, or stayed in, with the shift register run empty (rules R81, R107). -/
theorem idle_empty_of_selects (hinv : r.Inv) (hsel : Selects r i op)
    (hst : (cycleRegs op r i).st = .idle) : (cycleRegs op r i).sr = 0 := by
  cases op
  case divCount | divReload | divFreeze | latchKeep | latchSet | reset => cases hsel
  case fsmHold => exact hinv.facts.idle_empty hst
  case idleWait => exact hinv.facts.idle_empty hsel.2.1
  case busyhighDone | busyhighDoneInit =>
    obtain ⟨-, hhigh, -, hwords, -⟩ := hsel
    have hempty : r.sr = 0 :=
      sr_eq_zero_of_bitsLeft_eq_zero hinv (by simp [Regs.bitsLeft, hhigh, hwords])
    exact hempty
  all_goals cases hst

/-- Where the shift register stays, the zeros below the bits to be sent stay. -/
theorem drained_of_same {r' : Regs p} (hinv : r.Inv) (hsr : r'.sr = r.sr) (hleft : r.bitsLeft ≤ r'.bitsLeft) :
    ∀ j, j + r'.bitsLeft < p.L → r'.sr.getLsbD j = false := by
  intro j hj
  rw [hsr]
  exact hinv.drained j (by omega)

/-- Where the shift register shifts, one zero more stands below the bits to be sent (rule R107). -/
theorem drained_of_shift {r' : Regs p} (hinv : r.Inv) (hsr : r'.sr = shl1 r.sr)
    (hleft : r.bitsLeft ≤ r'.bitsLeft + 1) : ∀ j, j + r'.bitsLeft < p.L → r'.sr.getLsbD j = false := by
  intro j hj
  rw [hsr, getLsbD_shl1 _ (by omega)]
  split
  case isTrue => rfl
  case isFalse hpos => exact hinv.drained (j - 1) (by omega)

/-- Below the bits still to be sent the shift register stays zero (rules R107, R108). -/
theorem drained_of_selects (hinv : r.Inv) (hsel : Selects r i op) :
    ∀ j, j + (cycleRegs op r i).bitsLeft < p.L → (cycleRegs op r i).sr.getLsbD j = false := by
  have hW := p.W_pos
  cases op
  case divCount | divReload | divFreeze | latchKeep | latchSet | reset => cases hsel
  case fsmHold => exact hinv.drained
  case idleWait => exact drained_of_same hinv rfl (by simp [cycleRegs, opRegs, Regs.bitsLeft, hsel.2.1])
  case startNormal =>
    intro j hj
    have hslots := p.slots_eq
    simp only [cycleRegs, opRegs, Regs.bitsLeft, toNat_allWords, toNat_lastBit] at hj
    omega
  case startInit =>
    intro j hj
    have hslots := p.slots_eq
    simp only [cycleRegs, opRegs, Regs.bitsLeft, toNat_oneWord, toNat_lastBit] at hj
    have hbelow : ¬ (p.C - 1) * p.W ≤ j := by omega
    simp only [cycleRegs, opRegs]
    rw [getLsbD_loadInit _ (by omega), decide_eq_false hbelow, Bool.false_and]
  case setupNext | setupLast =>
    exact drained_of_same hinv rfl (by simp [cycleRegs, opRegs, Regs.bitsLeft, hsel.2.1])
  case holdShift =>
    have := toNat_sub_one r.bitCnt (hinv.facts.hold_bits hsel.2)
    refine drained_of_shift hinv rfl ?_
    simp only [cycleRegs, opRegs, Regs.bitsLeft, hsel.2]
    omega
  case delayEnd =>
    have := toNat_sub_one r.wordCnt (hinv.facts.timed_words (.inr (.inr hsel.2)))
    refine drained_of_shift hinv rfl ?_
    simp only [cycleRegs, opRegs, Regs.bitsLeft, hsel.2, hinv.delay_bits hsel.2, this]
    simp
  case busylowWait | busylowAck | busyhighWait =>
    exact drained_of_same hinv rfl (by simp [cycleRegs, opRegs, Regs.bitsLeft, hsel.2.1])
  case busyhighNext =>
    obtain ⟨-, hst, -, hwords⟩ := hsel
    refine drained_of_same hinv rfl ?_
    obtain ⟨n, hn⟩ := Nat.exists_eq_add_of_le' (one_le_toNat hwords)
    simp only [cycleRegs, opRegs, Regs.bitsLeft, toNat_lastBit, hst, hn, Nat.add_sub_cancel, Nat.add_mul]
    omega
  case busyhighDone | busyhighDoneInit =>
    obtain ⟨-, hst, -, hwords, -⟩ := hsel
    exact drained_of_same hinv rfl (by simp [cycleRegs, opRegs, Regs.bitsLeft, hst, hwords])

/-- Every operation that a cycle selects keeps the invariant. -/
theorem inv_of_selects (hinv : r.Inv) (hsel : Selects r i op) : (cycleRegs op r i).Inv where
  facts :=
    { div_range := div_range_of_selects hinv.facts.div_range hsel
      bit_range := bit_range_of_selects hinv hsel
      word_range := word_range_of_selects hinv hsel
      polled_frozen := polled_frozen_of_selects hinv hsel
      hold_bits := (hold_delay_bits_of_selects hinv hsel).1
      timed_words := timed_words_of_selects hinv hsel
      idle_empty := idle_empty_of_selects hinv hsel
      done_not_pending := fun h => initPending_eq_false_of_initialized h }
  delay_bits := (hold_delay_bits_of_selects hinv hsel).2
  gap_words := gap_words_of_selects hinv hsel
  drained := drained_of_selects hinv hsel

/-- Every cycle keeps the invariant, with reset or without. -/
theorem inv_nextRegs (hinv : r.Inv) (i : Inputs p) : (nextRegs r i).Inv := by
  cases hrst : i.rst with
  | true => exact nextRegs_reset r hrst ▸ inv_reset p
  | false => exact nextRegs_of_selects hrst (selects_tickOp r i) ▸ inv_of_selects hinv (selects_tickOp r i)

/-- A run from registers with the invariant has it in every cycle. -/
theorem inv_of_isRun {r : Nat → Regs p} {i : Nat → Inputs p} (hrun : IsRun r i) (h0 : (r 0).Inv) (t : Nat) :
    (r t).Inv := by
  induction t with
  | zero => exact h0
  | succ t ih => exact (isRun_iff r i).1 hrun t ▸ inv_nextRegs ih (i t)

end Sys2Proof.Machine

namespace Sys2Proof

open Machine

/-- Settles O39. -/
theorem resetSatisfiesTheInvariant : Obligations.ResetSatisfiesTheInvariant :=
  ⟨inv_reset, inv_reset .scenario⟩

/-- Settles O40: the next state's registers are those the selected operations leave. -/
theorem everyCycleKeepsTheInvariant : Obligations.EveryCycleKeepsTheInvariant := by
  rintro ⟨p, r, i, u, c⟩ s' hinv hstep
  obtain ⟨j, v, hedge⟩ := State.clockEdge_keeps p (nextRegs r i) i u c
  rw [step_eq, hedge] at hstep
  cases hstep
  exact inv_nextRegs hinv i

/-- Settles O41: the facts are part of the invariant, which reset gives and every cycle keeps. -/
theorem reachableFactsInEveryRun : Obligations.ReachableFactsInEveryRun :=
  fun p _ _ hrun h0 t => (inv_of_isRun hrun (h0 ▸ inv_reset p) t).facts

end Sys2Proof
end

section
/-! PROOFS. Runs: the divider counting down (rules R71, R74), a stall in a polled state (rule R142), and
the flag that is set once (rule R93). -/

namespace Sys2Proof.Machine

variable {p : Params}

/-- What is seen of `init` one cycle later. -/
theorem initSeen_succ (i : Nat → Inputs p) (t k : Nat) :
    initSeen i t (k + 1) = (initSeen i t k || (i (t + k)).init) := by
  rw [initSeen_add, initSeen_one]

variable {r : Nat → Regs p} {i : Nat → Inputs p}

/-- The next cycle of a run. -/
theorem IsRun.next (hrun : IsRun r i) (t : Nat) : r (t + 1) = nextRegs (r t) (i t) :=
  (isRun_iff r i).1 hrun t

/-- A part of the cycles without reset, from their first. -/
theorem NoReset.mono {t m n : Nat} (h : NoReset i t n) (hmn : m ≤ n) : NoReset i t m :=
  h.of_part 0 m (by omega)

/-- The first cycle of several without reset. -/
theorem NoReset.first {t n : Nat} (h : NoReset i t n) (hn : 0 < n) : (i t).rst = false := h 0 hn

/-- From any cycle on the divider counts to 0, and in the meantime nothing else changes but the latch
(rules R74, R94). -/
theorem countdown (hrun : IsRun r i) {t d k : Nat} (hdiv : (r t).divCnt.toNat = d) (hk : k ≤ d)
    (hno : NoReset i t k) :
    r (t + k) = { r t with divCnt := BitVec.ofNat _ (d - k)
                           initLatched := (r t).initLatched || initSeen i t k } := by
  induction k with
  | zero => simp [← hdiv, initSeen_zero]
  | succ k ih =>
    have hregs := ih (by omega) (hno.mono (by omega))
    obtain ⟨n, hn⟩ : ∃ n, d - k = n + 1 := ⟨d - (k + 1), by omega⟩
    have hlt : n + 1 < 2 ^ p.divWidth := by
      have := (r t).divCnt.isLt
      omega
    have htick : (r (t + k)).tick = false := by
      rw [tick_eq_false_iff, hregs, hn]
      simp [Nat.mod_eq_of_lt hlt]
    rw [← Nat.add_assoc, hrun.next, nextRegs_hold (hno k (by omega)) htick, hregs, hn, initSeen_succ,
      ofNat_succ_sub_one, show d - (k + 1) = n by omega, Bool.or_assoc]

/-- A polled state that waits for the other level of `busy`, with the divider frozen (rules R88, R90). -/
def Stalled (r : Regs p) (i : Inputs p) : Prop :=
  r.divCnt = 0 ∧ (r.st = .busyLow ∧ i.busy = true ∨ r.st = .busyHigh ∧ i.busy = false)

/-- The wait operation of a polled state. -/
def waitOp (r : Regs p) : Instr := if r.st = .busyLow then .busylowWait else .busyhighWait

/-- A stalled cycle selects the wait operation of its state. -/
theorem Stalled.selects {r : Regs p} {i : Inputs p} (h : Stalled r i) : Selects r i (waitOp r) := by
  obtain ⟨hdiv, ⟨hst, hbusy⟩ | ⟨hst, hbusy⟩⟩ := h
  all_goals
    rw [waitOp, hst]
    exact ⟨hdiv, hst, hbusy⟩

/-- A stalled cycle changes nothing but the latch (rule R142). -/
theorem Stalled.nextRegs_eq {r : Regs p} {i : Inputs p} (h : Stalled r i) (hrst : i.rst = false) :
    nextRegs r i = { r with initLatched := r.initLatched || i.init } := by
  rw [nextRegs_of_selects hrst h.selects]
  obtain ⟨-, ⟨hst, -⟩ | ⟨hst, -⟩⟩ := h
  all_goals simp [waitOp, hst, cycleRegs, opRegs, divPartner]

/-- A run stands still, but for the latch, as long as the level it waits for does not come (rule R142). -/
theorem stall_regs (hrun : IsRun r i) {t n : Nat} (hno : NoReset i t n)
    (hstall : ∀ k < n, Stalled (r t) (i (t + k))) {k : Nat} (hk : k ≤ n) :
    r (t + k) = { r t with initLatched := (r t).initLatched || initSeen i t k } := by
  induction k with
  | zero => simp [initSeen_zero]
  | succ k ih =>
    have hregs := ih (by omega)
    have hstalled : Stalled (r (t + k)) (i (t + k)) := hregs ▸ hstall k (by omega)
    rw [← Nat.add_assoc, hrun.next, hstalled.nextRegs_eq (hno k (by omega)), hregs, initSeen_succ,
      Bool.or_assoc]

/-- `initialized` stays until reset (rule R17). -/
theorem initialized_stays (hrun : IsRun r i) {t n : Nat} (hno : NoReset i t n)
    (hdone : (r t).initialized = true) {k : Nat} (hk : k ≤ n) : (r (t + k)).initialized = true := by
  induction k with
  | zero => exact hdone
  | succ k ih =>
    rw [← Nat.add_assoc, hrun.next, initialized_nextRegs _ (hno k (by omega)), ih (by omega), Bool.true_or]

end Sys2Proof.Machine

namespace Sys2Proof

open Machine

/-- Settles O52: the divider counts down from the value that the reload gives it. -/
theorem oneTickPerPeriod : Obligations.OneTickPerPeriod := by
  intro p r i t hrun hno htick
  have hN := p.N_pos
  have hrst := hno.first hN
  refine ⟨fun hload k hk1 hkN => ?reload, fun hload => ?freeze⟩
  case reload =>
    have hdiv : (r (t + 1)).divCnt.toNat = p.N - 1 := by
      rw [hrun.next, divCnt_nextRegs_reload hrst htick hload, toNat_divReloadValue]
    have hregs := countdown hrun hdiv (show k - 1 ≤ p.N - 1 by omega) (hno.of_part 1 (k - 1) (by omega))
    rw [show t + 1 + (k - 1) = t + k by omega] at hregs
    have hcount : (r (t + k)).divCnt.toNat = p.N - k := by
      rw [hregs, toNat_ofNat_width (by omega)]
      omega
    refine ⟨hcount, ?_⟩
    rw [Regs.tick, beq_zero_iff_toNat, hcount]
    omega
  case freeze =>
    rw [hrun.next, tick_iff]
    exact divCnt_nextRegs_freeze hrst htick hload

/-- Settles O53: every cycle of the stall is stalled with the registers of its first. -/
theorem stallHasNoTimeout : Obligations.StallHasNoTimeout := by
  intro p r i t n hrun hno hdiv hwait k hk
  have hstall : ∀ k < n, Stalled (r t) (i (t + k)) := by
    intro k hk
    obtain ⟨hst, hbusy⟩ | ⟨hst, hbusy⟩ := hwait
    · exact ⟨hdiv, .inl ⟨hst, hbusy k hk⟩⟩
    · exact ⟨hdiv, .inr ⟨hst, hbusy k hk⟩⟩
  have hst : (r t).st = .busyLow ∨ (r t).st = .busyHigh :=
    hwait.imp (fun h => h.1) (fun h => h.1)
  have hregs := stall_regs hrun hno hstall hk
  refine ⟨hregs, ?csN, ?sclk, ?ready, fun hlt => ?op⟩
  case op =>
    have hstalled : Stalled (r (t + k)) (i (t + k)) := hregs ▸ hstall k hlt
    have hop := opOf_eq_ok_iff_selects.2 hstalled.selects
    rw [hop, waitOp, hregs]
  all_goals
    rw [hregs]
    rcases hst with hst | hst <;> simp [Regs.csN, Regs.sclk, ready, hst]

/-- Settles O49: after the operation the flag is set, with which it is not selected. -/
theorem initializedIsSetAtMostOnce : Obligations.InitializedIsSetAtMostOnce := by
  intro p r i t n hrun hno hop k hk1 hkn hagain
  rw [opOf_eq, Except.ok.injEq] at hop hagain
  have hset : (r (t + 1)).initialized = true := by
    rw [hrun.next, initialized_nextRegs _ (hno.first (by omega)), hop]
    simp
  have hstays := initialized_stays hrun (hno.of_part 1 (k - 1) (by omega)) hset le_rfl
  rw [show t + 1 + (k - 1) = t + k by omega, initialized_eq_false_of_doneInit hagain] at hstays
  cases hstays

end Sys2Proof
end

section
/-! PROOFS. What a stretch of cycles shows (rules R60, R109, R137): the operations executed, the bits that a
device samples and the frames that open, for one cycle and put together. -/

namespace Sys2Proof.Machine

variable {p : Params} {r : Nat → Regs p} {i : Nat → Inputs p} {t m n : Nat}

/-- What the `n` cycles from `t` on show: the tick-gated operations without FSM_HOLD, the bits sampled and
the number of frames that open. -/
structure Shows (r : Nat → Regs p) (i : Nat → Inputs p) (t n : Nat) (ops : List Instr) (bits : List Bool)
    (frames : Nat) : Prop where
  ops_eq : opsExecuted r i t n = ops
  bits_eq : sampled r t n = bits
  frames_eq : framesOpened r t n = frames

/-- No cycle shows nothing. -/
theorem Shows.nil : Shows r i t 0 [] [] 0 := ⟨rfl, rfl, rfl⟩

/-- What one stretch and the next show together. -/
theorem Shows.append {ops ops' : List Instr} {bits bits' : List Bool} {frames frames' : Nat}
    (h : Shows r i t m ops bits frames) (h' : Shows r i (t + m) n ops' bits' frames') :
    Shows r i t (m + n) (ops ++ ops') (bits ++ bits') (frames + frames') where
  ops_eq := by rw [opsExecuted_add, h.ops_eq, h'.ops_eq]
  bits_eq := by rw [sampled_add, h.bits_eq, h'.bits_eq]
  frames_eq := by rw [framesOpened_add, h.frames_eq, h'.frames_eq]

/-- What a number of cycles show that show the same operations and nothing on the pins. -/
theorem Shows.replicate {ops : List Instr} (h : ∀ k < n, Shows r i (t + k) 1 ops [] 0) :
    Shows r i t n (List.replicate n ops).flatten [] 0 := by
  induction n with
  | zero => exact .nil
  | succ n ih =>
    rw [List.replicate_succ', List.flatten_append]
    simpa using (ih fun k hk => h k (by omega)).append (h n (by omega))

/-- The row of an operation in the list of those executed (rule R61). -/
def opShown (op : Instr) : List Instr := if op = .fsmHold then [] else [op]

/-- The bit that a device samples at the end of a cycle with an operation, `b` being on the line (rule R109). -/
def bitShown (op : Instr) (b : Bool) : List Bool := if op ∈ [Instr.setupNext, .setupLast] then [b] else []

/-- How many frames an operation opens (rule R137). -/
def framesShown (op : Instr) : Nat := if op ∈ [Instr.startNormal, .startInit, .busyhighNext] then 1 else 0

/-- What one cycle shows, by its operation. -/
theorem shows_cycle (hrun : IsRun r i) {op : Instr} (hrst : (i t).rst = false)
    (hsel : Selects (r t) (i t) op) :
    Shows r i t 1 (opShown op) (bitShown op (r t).sdo) (framesShown op) := by
  obtain ⟨-, hfalls, -, hopens, -⟩ :=
    edgesOfTheSerialPins p (r t) (i t) (r (t + 1)) op hrst (hrun t) (opOf_eq_ok_iff_selects.2 hsel)
  refine ⟨?ops, ?bits, ?frames⟩
  case ops => rw [opsExecuted_one, tickOp_of_selects hsel, opShown]
  case bits => simp only [sampled_one, bitShown, Bool.and_eq_true, Bool.not_eq_true', hfalls]
  case frames => simp only [framesOpened_one, framesShown, Bool.and_eq_true, Bool.not_eq_true', hopens]

/-- In each of the `n` cycles from `t` on a transfer is going on, with `initialized` as given. -/
def Active (r : Nat → Regs p) (t n : Nat) (done : Bool) : Prop :=
  ∀ k < n, (r (t + k)).st ≠ .idle ∧ (r (t + k)).initialized = done

/-- A transfer goes on through one stretch and the next. -/
theorem Active.append {done : Bool} (h : Active r t m done) (h' : Active r (t + m) n done) :
    Active r t (m + n) done := by
  intro k hk
  obtain hlt | hge := Nat.lt_or_ge k m
  · exact h k hlt
  · have := h' (k - m) (by omega)
    rwa [show t + m + (k - m) = t + k by omega] at this

end Sys2Proof.Machine
end

section
/-! PROOFS. One word, cycle by cycle (rules R77, R107, R183): each bit is a visit of `N` cycles to SETUP and
one of `N` cycles to HOLD or, after the last bit, to DELAY. -/

namespace Sys2Proof.Machine

variable {p : Params} {r : Nat → Regs p} {i : Nat → Inputs p} {t : Nat}

/-- The registers in a cycle of a word that began with `x`: bit `b` is on the line. -/
def lineRegs (x : Regs p) (b : Nat) (st : FsmState) (d : Nat) (latch : Bool) : Regs p :=
  { st := st, divCnt := BitVec.ofNat _ d, sr := x.sr <<< b, bitCnt := BitVec.ofNat _ (p.W - 1 - b),
    wordCnt := x.wordCnt, initLatched := latch, initialized := x.initialized }

/-- The registers in the first cycle after a word that began with `x`. -/
def wordEndRegs (x : Regs p) (latch : Bool) : Regs p :=
  { st := .busyLow, divCnt := 0, sr := x.sr <<< p.W, bitCnt := 0, wordCnt := x.wordCnt - 1,
    initLatched := latch, initialized := x.initialized }

/-- The state of the second half of a bit: HOLD, or DELAY after the last bit (rules R84, R85). -/
def lowState (p : Params) (b : Nat) : FsmState := if b < p.W - 1 then .hold else .delay

/-- The operation in the middle of a bit (rules R84, R85). -/
def fallOp (p : Params) (b : Nat) : Instr := if b < p.W - 1 then .setupNext else .setupLast

/-- The bit that `x` puts on the line as bit `b` of the word. -/
def lineBit (x : Regs p) (b : Nat) : Bool := x.sr.getLsbD (p.L - 1 - b)

/-- The bit on the line is the one the register has been shifted to (rule R133). -/
theorem sdo_lineRegs (x : Regs p) {b : Nat} (hb : b < p.W) (st : FsmState) (d : Nat) (latch : Bool) :
    (lineRegs x b st d latch).sdo = lineBit x b := by
  have hWL : p.W ≤ p.L := Nat.le_mul_of_pos_left _ p.C_pos
  have htop : p.L - 1 < p.L := by omega
  have hb' : ¬ p.L - 1 < b := by omega
  simp only [Regs.sdo, lineRegs, lineBit, BitVec.getLsbD_shiftLeft, htop, hb', decide_true, decide_false,
    Bool.not_false, Bool.true_and]

/-- The cycles of a visit: the divider counts down from `N - 1` (rule R77). -/
theorem visit_regs (hrun : IsRun r i) {x : Regs p} {b : Nat} {st : FsmState} {latch : Bool}
    (hregs : r t = lineRegs x b st (p.N - 1) latch) {k : Nat} (hk : k < p.N) (hno : NoReset i t k) :
    r (t + k) = lineRegs x b st (p.N - 1 - k) (latch || initSeen i t k) := by
  have hdiv : (r t).divCnt.toNat = p.N - 1 := hregs ▸ toNat_ofNat_width le_rfl
  rw [countdown hrun hdiv (by omega) hno, hregs]
  rfl

/-- The latch at the end of a visit. -/
theorem latch_visit (i : Nat → Inputs p) (t : Nat) (latch : Bool) :
    ((latch || initSeen i t (p.N - 1)) || (i (t + (p.N - 1))).init) = (latch || initSeen i t p.N) := by
  rw [Bool.or_assoc, ← initSeen_succ, Nat.sub_add_cancel p.N_pos]

/-- What a visit leaves and shows: its last cycle alone selects an operation. -/
theorem visit_end (hrun : IsRun r i) {x : Regs p} {b : Nat} {st : FsmState} {latch : Bool} {op : Instr}
    (hregs : r t = lineRegs x b st (p.N - 1) latch) (hb : b < p.W) (hno : NoReset i t p.N)
    (hsel : ∀ j l, Selects (lineRegs x b st 0 l) j op) :
    r (t + p.N) =
        cycleRegs op (lineRegs x b st 0 (latch || initSeen i t (p.N - 1))) (i (t + (p.N - 1))) ∧
      Shows r i t p.N (opShown op) (bitShown op (lineBit x b)) (framesShown op) := by
  have hN := p.N_pos
  have hlast := visit_regs hrun hregs (k := p.N - 1) (by omega) (hno.mono (by omega))
  rw [Nat.sub_self] at hlast
  have hrst : (i (t + (p.N - 1))).rst = false := hno _ (by omega)
  have hsel' : Selects (r (t + (p.N - 1))) (i (t + (p.N - 1))) op := hlast ▸ hsel _ _
  have hhold : ∀ k < p.N - 1, Shows r i (t + k) 1 [] [] 0 := by
    intro k hk
    refine shows_cycle hrun (op := .fsmHold) (hno k (by omega)) ?_
    rw [visit_regs hrun hregs (by omega) (hno.mono (by omega))]
    have hcount : p.N - 1 - k ≠ 0 := by omega
    exact fun hzero => hcount ((ofNat_width_eq_zero_iff (by omega)).1 hzero)
  have hend := shows_cycle hrun hrst hsel'
  rw [hlast, sdo_lineRegs x hb] at hend
  refine ⟨?regs, ?shows⟩
  case regs =>
    rw [← hlast, ← nextRegs_of_selects hrst hsel', ← hrun.next]
    congr 1
    omega
  case shows => simpa [Nat.sub_add_cancel hN] using (Shows.replicate hhold).append hend

/-- The first half of a bit (rules R84, R85). -/
theorem setup_half (hrun : IsRun r i) {x : Regs p} {b : Nat} {latch : Bool}
    (hregs : r t = lineRegs x b .setup (p.N - 1) latch) (hb : b < p.W) (hno : NoReset i t p.N) :
    r (t + p.N) = lineRegs x b (lowState p b) (p.N - 1) (latch || initSeen i t p.N) ∧
      Shows r i t p.N [fallOp p b] [lineBit x b] 0 := by
  have hbits : ∀ l, (lineRegs x b .setup 0 l).bitCnt = 0 ↔ ¬ b < p.W - 1 := fun _ =>
    (ofNat_width_eq_zero_iff (by omega)).trans (by omega)
  have hsel : ∀ j l, Selects (lineRegs x b .setup 0 l) j (fallOp p b) := by
    intro j l
    unfold fallOp
    split
    case isTrue hmore => exact ⟨rfl, rfl, fun hzero => (hbits l).1 hzero hmore⟩
    case isFalse hlast => exact ⟨rfl, rfl, (hbits l).2 hlast⟩
  obtain ⟨hnext, hshows⟩ := visit_end hrun hregs hb hno hsel
  rw [hnext, cycleRegs, ← latch_visit]
  revert hshows
  unfold fallOp lowState
  split <;> exact fun hshows => ⟨rfl, hshows⟩

/-- The second half of a bit that is not the last (rule R86). -/
theorem hold_half (hrun : IsRun r i) {x : Regs p} {b : Nat} {latch : Bool}
    (hregs : r t = lineRegs x b .hold (p.N - 1) latch) (hb : b < p.W - 1) (hno : NoReset i t p.N) :
    r (t + p.N) = lineRegs x (b + 1) .setup (p.N - 1) (latch || initSeen i t p.N) ∧
      Shows r i t p.N [.holdShift] [] 0 := by
  obtain ⟨hnext, hshows⟩ := visit_end hrun hregs (by omega) hno (op := .holdShift) fun _ _ => ⟨rfl, rfl⟩
  refine ⟨?_, hshows⟩
  rw [hnext, cycleRegs, ← latch_visit]
  obtain ⟨n, hn⟩ : ∃ n, p.W - 1 - b = n + 1 := ⟨p.W - 1 - b - 1, by omega⟩
  simp only [opRegs, lineRegs, divPartner, divReloadValue, hn, ofNat_succ_sub_one, shl1,
    BitVec.shiftLeft_add, show p.W - 1 - (b + 1) = n by omega]

/-- The second half of the last bit (rule R87). -/
theorem delay_half (hrun : IsRun r i) {x : Regs p} {b : Nat} {latch : Bool}
    (hregs : r t = lineRegs x b .delay (p.N - 1) latch) (hb : b + 1 = p.W) (hno : NoReset i t p.N) :
    r (t + p.N) = wordEndRegs x (latch || initSeen i t p.N) ∧ Shows r i t p.N [.delayEnd] [] 0 := by
  obtain ⟨hnext, hshows⟩ := visit_end hrun hregs (by omega) hno (op := .delayEnd) fun _ _ => ⟨rfl, rfl⟩
  refine ⟨?_, hshows⟩
  rw [hnext, cycleRegs, ← latch_visit]
  simp only [opRegs, lineRegs, wordEndRegs, divPartner, shl1, ← BitVec.shiftLeft_add, hb,
    show p.W - 1 - b = 0 by omega]
  rfl

/-- The latch after one stretch and the next. -/
theorem latch_add (i : Nat → Inputs p) (t m n : Nat) (latch : Bool) :
    ((latch || initSeen i t m) || initSeen i (t + m) n) = (latch || initSeen i t (m + n)) := by
  rw [Bool.or_assoc, ← initSeen_add]

section
variable (hrun : IsRun r i) {x : Regs p} {latch : Bool}
  (hregs : r t = lineRegs x 0 .setup (p.N - 1) latch)
include hrun hregs

/-- The first cycle of each bit, and what the bits before it show (rules R61, R107). -/
theorem word_bits {b : Nat} (hb : b ≤ p.W - 1) (hno : NoReset i t (b * (2 * p.N))) :
    r (t + b * (2 * p.N)) = lineRegs x b .setup (p.N - 1) (latch || initSeen i t (b * (2 * p.N))) ∧
      Shows r i t (b * (2 * p.N)) (List.replicate b [.setupNext, .holdShift]).flatten
        ((List.range b).map (lineBit x)) 0 := by
  induction b with
  | zero =>
    rw [Nat.zero_mul]
    exact ⟨by rw [Nat.add_zero, initSeen_zero, Bool.or_false, hregs], .nil⟩
  | succ b ih =>
    have hlen : (b + 1) * (2 * p.N) = b * (2 * p.N) + p.N + p.N := by ring
    rw [hlen] at hno ⊢
    obtain ⟨hfirst, hbefore⟩ := ih (by omega) (hno.mono (by omega))
    obtain ⟨hlow, hfall⟩ := setup_half hrun hfirst (by omega) (hno.of_part _ _ (by omega))
    rw [latch_add, Nat.add_assoc, lowState, if_pos (by omega)] at hlow
    obtain ⟨hnext, hshift⟩ := hold_half hrun hlow (by omega) (hno.of_part _ _ (by omega))
    rw [latch_add, Nat.add_assoc] at hnext
    refine ⟨hnext, ?_⟩
    rw [fallOp, if_pos (by omega)] at hfall
    simpa [List.replicate_succ', List.range_succ] using
      (hbefore.append hfall).append hshift

/-- The registers in the cycles of a bit (rules R77, R107, R183). -/
theorem bit_regs {b k : Nat} (hb : b < p.W) (hk : k < 2 * p.N) (hno : NoReset i t (b * (2 * p.N) + k)) :
    r (t + (b * (2 * p.N) + k)) =
      lineRegs x b (if k < p.N then .setup else lowState p b) (p.N - 1 - k % p.N)
        (latch || initSeen i t (b * (2 * p.N) + k)) := by
  obtain ⟨hfirst, -⟩ := word_bits hrun hregs (b := b) (by omega) (hno.mono (by omega))
  split
  case isTrue hhigh =>
    rw [← Nat.add_assoc, visit_regs hrun hfirst hhigh (hno.of_part _ _ (by omega)), latch_add,
      Nat.mod_eq_of_lt hhigh]
  case isFalse hlow =>
    obtain ⟨d, rfl⟩ := Nat.exists_eq_add_of_le (Nat.not_lt.1 hlow)
    obtain ⟨hmid, -⟩ := setup_half hrun hfirst hb (hno.of_part _ _ (by omega))
    have hd : d < p.N := by omega
    rw [latch_add, Nat.add_assoc] at hmid
    rw [← Nat.add_assoc (b * (2 * p.N)), ← Nat.add_assoc t,
      visit_regs hrun hmid hd (hno.of_part _ _ (by omega)), latch_add, Nat.add_mod_left,
      Nat.mod_eq_of_lt hd]

/-- The registers in every cycle of a word (rules R77, R107, R183). -/
theorem word_regs (hno : NoReset i t (2 * p.W * p.N)) {k : Nat} (hk : k < 2 * p.W * p.N) :
    r (t + k) =
      lineRegs x (k / (2 * p.N)) (if k % (2 * p.N) < p.N then .setup else lowState p (k / (2 * p.N)))
        (p.N - 1 - k % p.N) (latch || initSeen i t k) := by
  have hN := p.N_pos
  have hb : k / (2 * p.N) < p.W := Nat.div_lt_of_lt_mul (by linarith)
  have hsplit : k / (2 * p.N) * (2 * p.N) + k % (2 * p.N) = k := Nat.div_add_mod' _ _
  have hbit := bit_regs hrun hregs hb (Nat.mod_lt k (by omega)) (by rw [hsplit]; exact hno.mono hk.le)
  rwa [hsplit, Nat.mod_mod_of_dvd k (Dvd.intro_left 2 rfl)] at hbit

/-- The first cycle after a word, and what the word shows (rules R61, R107). -/
theorem word_end (hno : NoReset i t (2 * p.W * p.N)) :
    r (t + 2 * p.W * p.N) = wordEndRegs x (latch || initSeen i t (2 * p.W * p.N)) ∧
      Shows r i t (2 * p.W * p.N)
        ((List.replicate (p.W - 1) [Instr.setupNext, .holdShift]).flatten ++ [.setupLast, .delayEnd])
        ((List.range p.W).map (lineBit x)) 0 := by
  obtain ⟨w, hw⟩ := Nat.exists_eq_add_of_le' p.W_pos
  have hlen : 2 * p.W * p.N = w * (2 * p.N) + p.N + p.N := by rw [hw]; ring
  rw [hlen] at hno ⊢
  obtain ⟨hfirst, hbefore⟩ := word_bits hrun hregs (b := w) (by omega) (hno.mono (by omega))
  obtain ⟨hlow, hfall⟩ := setup_half hrun hfirst (by omega) (hno.of_part _ _ (by omega))
  have hlast : ¬ w < p.W - 1 := by omega
  rw [latch_add, Nat.add_assoc, lowState, if_neg hlast] at hlow
  rw [fallOp, if_neg hlast] at hfall
  obtain ⟨hend, hclose⟩ := delay_half hrun hlow hw.symm (hno.of_part _ _ (by omega))
  rw [latch_add, Nat.add_assoc] at hend
  refine ⟨hend, ?_⟩
  have hshows := (hbefore.append hfall).append hclose
  simpa [hw, List.range_succ] using hshows

end

end Sys2Proof.Machine

namespace Sys2Proof

open Machine

/-- Settles O54: the word begins with the registers of its own first cycle. -/
theorem wordCycleByCycle : Obligations.WordCycleByCycle := by
  intro p r i t hrun hno hst hdiv hbits
  have hregs : r t = lineRegs (r t) 0 .setup (p.N - 1) (r t).initLatched := by
    rw [lineRegs, BitVec.shiftLeft_zero, Nat.sub_zero, ← hst, ← hdiv, ← hbits]
  exact ⟨fun k hk => word_regs hrun hregs hno hk, (word_end hrun hregs hno).1⟩

end Sys2Proof
end

section
/-! PROOFS. A word with the device's answer (rules R88 to R90, R181), and the cycles that begin a transfer,
begin its next word and end it (rules R82, R83, R91 to R93). -/

namespace Sys2Proof.Machine

variable {p : Params} {r : Nat → Regs p} {i : Nat → Inputs p} {t m n : Nat}

/-- The registers in the first cycle of a word: `v` to be shifted out and `n` words left, this one included. -/
def wordStartRegs (v : BitVec p.L) (n : Nat) (latch done : Bool) : Regs p :=
  { st := .setup, divCnt := BitVec.ofNat _ (p.N - 1), sr := v, bitCnt := BitVec.ofNat _ (p.W - 1),
    wordCnt := BitVec.ofNat _ n, initLatched := latch, initialized := done }

/-- The registers in a polled state between words, with `n` words left. -/
def gapRegs (st : FsmState) (v : BitVec p.L) (n : Nat) (latch done : Bool) : Regs p :=
  { st := st, divCnt := 0, sr := v, bitCnt := 0, wordCnt := BitVec.ofNat _ n, initLatched := latch,
    initialized := done }

/-- The registers in the first cycle after a transfer. -/
def transferEndRegs (v : BitVec p.L) (latch done : Bool) : Regs p :=
  { st := .idle, divCnt := 0, sr := v, bitCnt := BitVec.ofNat _ (p.W - 1), wordCnt := 0,
    initLatched := latch, initialized := done }

/-- In the first cycle of a word bit 0 is on the line. -/
theorem lineRegs_wordStartRegs (v : BitVec p.L) (n : Nat) (latch done : Bool) :
    lineRegs (wordStartRegs v n latch done) 0 .setup (p.N - 1) latch = wordStartRegs v n latch done := by
  rw [lineRegs, wordStartRegs, BitVec.shiftLeft_zero, Nat.sub_zero]

/-- After a word one word less is left. -/
theorem wordEndRegs_wordStartRegs (v : BitVec p.L) (n : Nat) (latch latch' done : Bool) :
    wordEndRegs (wordStartRegs v (n + 1) latch done) latch' = gapRegs .busyLow (v <<< p.W) n latch' done := by
  simp only [wordEndRegs, wordStartRegs, gapRegs, ofNat_succ_sub_one]

/-- A stall shows its wait operations (rules R88, R90). -/
theorem stall_shows (hrun : IsRun r i) (hno : NoReset i t n)
    (hstall : ∀ k < n, Stalled (r t) (i (t + k))) :
    Shows r i t n (List.replicate n (waitOp (r t))) [] 0 := by
  have hcycle : ∀ k < n, Shows r i (t + k) 1 [waitOp (r t)] [] 0 := by
    intro k hk
    have hregs := stall_regs hrun hno hstall (k := k) (by omega)
    have hstalled : Stalled (r (t + k)) (i (t + k)) := hregs ▸ hstall k hk
    have hwait : waitOp (r (t + k)) = waitOp (r t) := by rw [waitOp, hregs, waitOp]
    have hshows := shows_cycle hrun (hno k hk) hstalled.selects
    rw [hwait] at hshows
    revert hshows
    unfold waitOp
    split <;> exact id
  simpa using Shows.replicate hcycle

/-- During a stall and in the cycle after it the transfer goes on. -/
theorem stall_active (hrun : IsRun r i) (hno : NoReset i t n)
    (hstall : ∀ k < n, Stalled (r t) (i (t + k))) (hst : (r t).st ≠ .idle) :
    Active r t (n + 1) (r t).initialized := by
  intro k hk
  rw [stall_regs hrun hno hstall (k := k) (by omega)]
  exact ⟨hst, rfl⟩

/-- The visit to BUSY_LOW: `m` waits and the acknowledgement (rules R88, R89). -/
theorem low_gap (hrun : IsRun r i) {v : BitVec p.L} {words : Nat} {latch done : Bool}
    (hregs : r t = gapRegs .busyLow v words latch done) (hno : NoReset i t (m + 1))
    (hwait : ∀ k < m, (i (t + k)).busy = true) (hack : (i (t + m)).busy = false) :
    r (t + (m + 1)) = gapRegs .busyHigh v words (latch || initSeen i t (m + 1)) done ∧
      Shows r i t (m + 1) (List.replicate m .busylowWait ++ [.busylowAck]) [] 0 ∧
      Active r t (m + 1) done := by
  have hstall : ∀ k < m, Stalled (r t) (i (t + k)) := fun k hk =>
    hregs ▸ ⟨rfl, .inl ⟨rfl, hwait k hk⟩⟩
  have hno' := hno.mono (Nat.le_succ m)
  have hlast := stall_regs hrun hno' hstall le_rfl
  have hshows := stall_shows hrun hno' hstall
  have hactive := stall_active hrun hno' hstall (by simp [hregs, gapRegs])
  rw [hregs] at hlast hshows hactive
  have hsel : Selects (r (t + m)) (i (t + m)) .busylowAck := hlast ▸ ⟨rfl, rfl, hack⟩
  have hrst := hno m (by omega)
  refine ⟨?_, hshows.append (shows_cycle hrun hrst hsel), hactive⟩
  rw [← Nat.add_assoc, hrun.next, nextRegs_of_selects hrst hsel, hlast, initSeen_succ, ← Bool.or_assoc]
  rfl

/-- The visit to BUSY_HIGH up to its last cycle: `n` waits (rule R90). -/
theorem high_gap (hrun : IsRun r i) {v : BitVec p.L} {words : Nat} {latch done : Bool}
    (hregs : r t = gapRegs .busyHigh v words latch done) (hno : NoReset i t n)
    (hwait : ∀ k < n, (i (t + k)).busy = false) :
    r (t + n) = gapRegs .busyHigh v words (latch || initSeen i t n) done ∧
      Shows r i t n (List.replicate n .busyhighWait) [] 0 ∧ Active r t (n + 1) done := by
  have hstall : ∀ k < n, Stalled (r t) (i (t + k)) := fun k hk =>
    hregs ▸ ⟨rfl, .inr ⟨rfl, hwait k hk⟩⟩
  have hlast := stall_regs hrun hno hstall le_rfl
  have hshows := stall_shows hrun hno hstall
  have hactive := stall_active hrun hno hstall (by simp [hregs, gapRegs])
  rw [hregs] at hlast hshows hactive
  exact ⟨hlast, hshows, hactive⟩

/-- During the cycles of a word the transfer goes on. -/
theorem word_active (hrun : IsRun r i) {x : Regs p} {latch : Bool}
    (hregs : r t = lineRegs x 0 .setup (p.N - 1) latch) (hno : NoReset i t (2 * p.W * p.N)) :
    Active r t (2 * p.W * p.N) x.initialized := by
  intro k hk
  rw [word_regs hrun hregs hno hk]
  refine ⟨?_, rfl⟩
  simp only [lineRegs, lowState]
  split_ifs <;> simp

/-- A word and the device's answer to it, up to the last cycle of BUSY_HIGH (rules R61, R181). -/
theorem word_answered (hrun : IsRun r i) {v : BitVec p.L} {words a b e : Nat} {latch done : Bool}
    (hregs : r t = wordStartRegs v (words + 1) latch done) (hdev : DeviceAnswers i t a b)
    (he : e + 1 = 2 * p.W * p.N + a + b) (hno : NoReset i t e) :
    r (t + e) = gapRegs .busyHigh (v <<< p.W) words (latch || initSeen i t e) done ∧
      Shows r i t e (wordOps p.W (a - 1) (b - 1))
        ((List.range p.W).map fun k => v.getLsbD (p.L - 1 - k)) 0 ∧
      Active r t (e + 1) done ∧ (i (t + e)).busy = true := by
  obtain ⟨ha, hb, hlow, hhigh, hlast⟩ := hdev
  obtain ⟨m, rfl⟩ := Nat.exists_eq_add_of_le' ha
  obtain ⟨n, rfl⟩ := Nat.exists_eq_add_of_le' hb
  obtain rfl : e = 2 * p.W * p.N + (m + 1) + n := by omega
  rw [Nat.add_sub_cancel] at hlow hhigh hlast
  have hline := hregs.trans (lineRegs_wordStartRegs ..).symm
  have hnoWord : NoReset i t (2 * p.W * p.N) := hno.mono (by omega)
  obtain ⟨hend, (hword : Shows r i t _ _ ((List.range p.W).map fun k => v.getLsbD (p.L - 1 - k)) 0)⟩ :=
    word_end hrun hline hnoWord
  rw [wordEndRegs_wordStartRegs] at hend
  obtain ⟨hack, hlowShows, hlowActive⟩ :=
    low_gap hrun hend (hno.of_part _ _ (by omega)) hlow (hhigh 0 (by omega))
  rw [latch_add, Nat.add_assoc] at hack
  obtain ⟨hready, hhighShows, hhighActive⟩ :=
    high_gap hrun hack (hno.of_part _ n (by omega)) fun k hk => by
      rw [← hhigh (1 + k) (by omega)]
      congr 2
      omega
  rw [latch_add, Nat.add_assoc] at hready
  refine ⟨hready, ?shows, ?active, ?busy⟩
  case shows => simpa [wordOps] using (hword.append hlowShows).append hhighShows
  case active => exact ((word_active hrun hline hnoWord).append hlowActive).append hhighActive
  case busy =>
    rw [← hlast]
    congr 2
    omega

/-- The first cycle of a normal transfer (rule R82). -/
theorem startNormal_cycle (hrun : IsRun r i) (hrst : (i t).rst = false)
    (hsel : Selects (r t) (i t) .startNormal) :
    r (t + 1) = wordStartRegs (i t).data p.C ((r t).initLatched || (i t).init) (r t).initialized ∧
      Shows r i t 1 [.startNormal] [] 1 :=
  ⟨by rw [hrun.next, nextRegs_of_selects hrst hsel]; rfl, shows_cycle hrun hrst hsel⟩

/-- The first cycle of an init transfer (rule R83). -/
theorem startInit_cycle (hrun : IsRun r i) (hrst : (i t).rst = false)
    (hsel : Selects (r t) (i t) .startInit) :
    r (t + 1) = wordStartRegs (loadInit (i t).data) 1 true false ∧ Shows r i t 1 [.startInit] [] 1 := by
  obtain ⟨-, -, hip⟩ := id hsel
  obtain ⟨-, hfresh⟩ := (initPending_eq_true_iff _ _).1 hip
  refine ⟨?_, shows_cycle hrun hrst hsel⟩
  rw [hrun.next, nextRegs_of_selects hrst hsel, cycleRegs, initLatched_of_pending hip]
  simp only [opRegs, divPartner, hfresh]
  rfl

/-- The last cycle of BUSY_HIGH with words left (rule R91). -/
theorem next_cycle (hrun : IsRun r i) (hrst : (i t).rst = false) {v : BitVec p.L} {words : Nat}
    {latch done : Bool} (hregs : r t = gapRegs .busyHigh v (words + 1) latch done) (hC : words + 1 ≤ p.C)
    (hbusy : (i t).busy = true) :
    r (t + 1) = wordStartRegs v (words + 1) (latch || (i t).init) done ∧
      Shows r i t 1 [.busyhighNext] [] 1 := by
  have hwords : (gapRegs .busyHigh v (words + 1) latch done : Regs p).wordCnt ≠ 0 := fun hzero =>
    Nat.succ_ne_zero words ((ofNat_width_eq_zero_iff hC).1 hzero)
  have hsel : Selects (r t) (i t) .busyhighNext := hregs ▸ ⟨rfl, rfl, hbusy, hwords⟩
  refine ⟨?_, shows_cycle hrun hrst hsel⟩
  rw [hrun.next, nextRegs_of_selects hrst hsel, hregs]
  rfl

/-- The last cycle of a transfer (rules R92, R93). -/
theorem last_cycle (hrun : IsRun r i) (hrst : (i t).rst = false) {v : BitVec p.L} {latch done : Bool}
    (hregs : r t = gapRegs .busyHigh v 0 latch done) (hbusy : (i t).busy = true) :
    r (t + 1) = transferEndRegs v (latch || (i t).init) (done || (latch || (i t).init)) ∧
      Shows r i t 1 [if initPending (r t) (i t) then .busyhighDoneInit else .busyhighDone] [] 0 := by
  have hdiv : (r t).divCnt = 0 := hregs ▸ rfl
  have hst : (r t).st = .busyHigh := hregs ▸ rfl
  have hwords : (r t).wordCnt = 0 := hregs ▸ rfl
  have hdone : (done || initPending (r t) (i t)) = (done || (latch || (i t).init)) := by
    rw [hregs, initPending, gapRegs, Bool.or_comm (i t).init]
    cases done <;> simp
  rw [← hdone]
  cases hip : initPending (r t) (i t) with
  | false =>
    have hsel : Selects (r t) (i t) .busyhighDone := ⟨hdiv, hst, hbusy, hwords, hip⟩
    refine ⟨?_, shows_cycle hrun hrst hsel⟩
    rw [hrun.next, nextRegs_of_selects hrst hsel, hregs, Bool.or_false]
    rfl
  | true =>
    have hsel : Selects (r t) (i t) .busyhighDoneInit := ⟨hdiv, hst, hbusy, hwords, hip⟩
    refine ⟨?_, shows_cycle hrun hrst hsel⟩
    rw [hrun.next, nextRegs_of_selects hrst hsel, hregs, Bool.or_true]
    rfl

end Sys2Proof.Machine
end

section
/-! PROOFS. An init transfer (rules R83, R93, R124): one word, the top slot of the init image. -/

namespace Sys2Proof.Machine

variable {p : Params}

/-- The bits of the init image that go out are those of segment 0 (rules R33, R102). -/
theorem lineBits_loadInit (v : BitVec p.L) :
    ((List.range p.W).map fun k => (loadInit v).getLsbD (p.L - 1 - k)) =
      (List.range p.W).map fun k => (seg 0 v).getLsbD (p.W - 1 - k) := by
  refine List.map_congr_left fun k hk => ?_
  have hkW := List.mem_range.1 hk
  have hslots := p.slots_eq
  have htop : (p.C - 1) * p.W ≤ p.L - 1 - k := by omega
  rw [getLsbD_loadInit v (by omega), getLsbD_seg _ _ (by omega), decide_eq_true htop, Bool.true_and,
    Nat.zero_mul, Nat.zero_add]
  congr 1
  omega

/-- After its one word the init image is shifted out (rule R107). -/
theorem loadInit_shifted_out (v : BitVec p.L) : loadInit v <<< p.W = 0 := by
  have hslots := p.slots_eq
  rw [loadInit, ← BitVec.shiftLeft_add, hslots]
  exact BitVec.shiftLeft_eq_zero le_rfl

/-- An init transfer: how it begins and ends, that it goes on in between, and what it shows. -/
theorem initTransfer_runs {r : Nat → Regs p} {i : Nat → Inputs p} {t a b : Nat} (hrun : IsRun r i)
    (hno : NoReset i t (1 + (2 * p.W * p.N + a + b))) (hst : (r t).st = .idle) (hdiv : (r t).divCnt = 0)
    (hip : initPending (r t) (i t) = true) (hdev : DeviceAnswers i (t + 1) a b) :
    r (t + 1) = wordStartRegs (loadInit (i t).data) 1 true false ∧
      r (t + 1 + (2 * p.W * p.N + a + b)) = transferEndRegs 0 true true ∧
      Active r (t + 1) (2 * p.W * p.N + a + b) false ∧
      Shows r i t (1 + (2 * p.W * p.N + a + b)) (initXfer p.W (a - 1) (b - 1))
        ((List.range p.W).map fun k => (seg 0 (i t).data).getLsbD (p.W - 1 - k)) 1 := by
  obtain ⟨hfirst, hstart⟩ := startInit_cycle hrun (hno.first (by omega)) ⟨hdiv, hst, hip⟩
  obtain ⟨e, he⟩ : ∃ e, e + 1 = 2 * p.W * p.N + a + b := ⟨_, Nat.sub_add_cancel (by have := hdev.1; omega)⟩
  rw [← he] at hno ⊢
  obtain ⟨hgap, hword, hactive, hbusy⟩ :=
    word_answered hrun hfirst hdev he (hno.of_part 1 e (by omega))
  rw [loadInit_shifted_out, Bool.true_or] at hgap
  have hrst : (i (t + 1 + e)).rst = false := hno.of_part 1 (e + 1) le_rfl e (by omega)
  obtain ⟨hend, hlast⟩ := last_cycle hrun hrst hgap hbusy
  rw [Bool.true_or, Bool.false_or, Nat.add_assoc] at hend
  have hpending : initPending (r (t + 1 + e)) (i (t + 1 + e)) = true := by
    rw [hgap, initPending, gapRegs]
    simp
  rw [hpending, if_pos rfl] at hlast
  rw [lineBits_loadInit] at hword
  refine ⟨hfirst, hend, hactive, ?_⟩
  simpa [initXfer, Nat.add_assoc] using hstart.append (hword.append hlast)

end Sys2Proof.Machine

namespace Sys2Proof

open Machine

/-- Settles O57. -/
theorem initTransferSetsInitialized : Obligations.InitTransferSetsInitialized := by
  intro p r i t a b hrun hno hst hdiv hip hdev
  obtain ⟨hfirst, hend, hactive, -⟩ := initTransfer_runs hrun hno hst hdiv hip hdev
  exact ⟨hfirst, hactive, hend⟩

/-- Settles O58. -/
theorem initTransferSendsSegmentZero : Obligations.InitTransferSendsSegmentZero := by
  intro p r i t a b hrun hno hst hdiv hip hdev
  obtain ⟨-, -, -, hshows⟩ := initTransfer_runs hrun hno hst hdiv hip hdev
  exact ⟨hshows.bits_eq, hshows.frames_eq⟩

end Sys2Proof
end

section
/-! PROOFS. A normal transfer (rules R82, R91, R92, R181): word by word, `data` being shifted by a word each
time. -/

namespace Sys2Proof.Machine

variable {p : Params}

/-- The bits of `data` in the order of the line. -/
def msbFirst (v : BitVec p.L) (n : Nat) : List Bool := (List.range n).map fun k => v.getLsbD (p.L - 1 - k)

/-- The bits of the next word follow those of the words before it (rules R32, R107). -/
theorem msbFirst_succ_word (v : BitVec p.L) {j : Nat} (hj : j < p.C) :
    msbFirst v (j * p.W) ++ msbFirst (v <<< (j * p.W)) p.W = msbFirst v ((j + 1) * p.W) := by
  rw [Nat.add_mul, Nat.one_mul]
  simp only [msbFirst, List.range_add, List.map_append, List.map_map]
  refine congrArg _ (List.map_congr_left fun k hk => ?_)
  have hslot := p.slot_lt hj (List.mem_range.1 hk)
  have htop : p.L - 1 - k < p.L := by omega
  have hshifted : ¬ p.L - 1 - k < j * p.W := by omega
  simp only [BitVec.getLsbD_shiftLeft, htop, hshifted, decide_true, decide_false, Bool.not_false,
    Bool.true_and, Function.comp_apply]
  congr 1
  omega

/-- The operations of a normal transfer up to the end of word `j` (rule R61). -/
def normalOps (W : Nat) (a b : Nat → Nat) (j : Nat) : List Instr :=
  .startNormal :: (wordOps W (a 0 - 1) (b 0 - 1) ++
    (List.range j).flatMap fun l => .busyhighNext :: wordOps W (a (l + 1) - 1) (b (l + 1) - 1))

/-- The operations up to the end of the next word. -/
theorem normalOps_succ (W : Nat) (a b : Nat → Nat) (j : Nat) :
    normalOps W a b (j + 1) =
      normalOps W a b j ++ .busyhighNext :: wordOps W (a (j + 1) - 1) (b (j + 1) - 1) := by
  simp [normalOps, List.range_succ]

/-- `NORMAL_XFER` is the operations up to the end of the last word, and BUSYHIGH_DONE (rule R61). -/
theorem normalXfer_eq (W : Nat) (a b : Nat → Nat) (c : Nat) :
    normalXfer W ((List.range (c + 1)).map fun j => (a j - 1, b j - 1)) =
      normalOps W a b c ++ [.busyhighDone] := by
  rw [List.range_succ_eq_map, List.map_cons, normalXfer, normalOps, List.map_map, List.flatMap_map]
  rfl

/-- A word begins no later than the words after it. -/
theorem wordStart_mono (p : Params) (a b : Nat → Nat) : Monotone (wordStart p a b) :=
  monotone_nat_of_le_succ fun _ => Nat.le_add_right _ _

/-- Word `j` of a normal transfer that is accepted in cycle `t`: its first cycle, its last cycle of
BUSY_HIGH, and what the transfer shows up to that cycle. -/
structure NormalWord (r : Nat → Regs p) (i : Nat → Inputs p) (t : Nat) (a b : Nat → Nat) (j : Nat) :
    Prop where
  first : r (t + (1 + wordStart p a b j)) =
    wordStartRegs ((i t).data <<< (j * p.W)) (p.C - j)
      ((r t).initLatched || initSeen i t (1 + wordStart p a b j)) (r t).initialized
  gap : r (t + wordStart p a b (j + 1)) =
    gapRegs .busyHigh ((i t).data <<< ((j + 1) * p.W)) (p.C - (j + 1))
      ((r t).initLatched || initSeen i t (wordStart p a b (j + 1))) (r t).initialized
  busy : (i (t + wordStart p a b (j + 1))).busy = true
  shows : Shows r i t (wordStart p a b (j + 1)) (normalOps p.W a b j)
    (msbFirst (i t).data ((j + 1) * p.W)) (j + 1)
  active : Active r (t + 1) (wordStart p a b (j + 1)) (r t).initialized

section
variable {r : Nat → Regs p} {i : Nat → Inputs p} {t : Nat} {a b : Nat → Nat} (hrun : IsRun r i)
  (hno : NoReset i t (1 + wordStart p a b p.C))
  (hdev : ∀ j < p.C, DeviceAnswers i (t + 1 + wordStart p a b j) (a j) (b j))
include hrun hno hdev

/-- A word runs from its first cycle to its last cycle of BUSY_HIGH (rule R181). -/
theorem normalWord_of_first {j : Nat} (hj : j < p.C) {ops : List Instr}
    (hfirst : r (t + (1 + wordStart p a b j)) =
      wordStartRegs ((i t).data <<< (j * p.W)) (p.C - j)
        ((r t).initLatched || initSeen i t (1 + wordStart p a b j)) (r t).initialized)
    (hbefore : Shows r i t (1 + wordStart p a b j) ops (msbFirst (i t).data (j * p.W)) (j + 1))
    (hops : ops ++ wordOps p.W (a j - 1) (b j - 1) = normalOps p.W a b j)
    (hactive : Active r (t + 1) (wordStart p a b j) (r t).initialized) : NormalWord r i t a b j := by
  have hanswer := hdev j hj
  rw [Nat.add_assoc] at hanswer
  obtain ⟨e, he⟩ : ∃ e, e + 1 = 2 * p.W * p.N + a j + b j :=
    ⟨_, Nat.sub_add_cancel (by have := hanswer.1; omega)⟩
  have hend : 1 + wordStart p a b j + e = wordStart p a b (j + 1) := by rw [wordStart]; omega
  have hend' : wordStart p a b j + (e + 1) = wordStart p a b (j + 1) := by omega
  have hlen : wordStart p a b (j + 1) ≤ wordStart p a b p.C := wordStart_mono p a b hj
  obtain ⟨words, hwords⟩ : ∃ words, p.C - j = words + 1 := ⟨p.C - (j + 1), by omega⟩
  rw [hwords] at hfirst
  obtain ⟨hgap, hword, hactiveWord, hbusy⟩ :=
    word_answered hrun hfirst hanswer he (hno.of_part _ _ (by omega))
  rw [latch_add, Nat.add_assoc t, hend, ← BitVec.shiftLeft_add, show words = p.C - (j + 1) by omega] at hgap
  rw [Nat.add_assoc t, hend] at hbusy
  refine ⟨hwords ▸ hfirst, by rw [hgap, Nat.add_mul, Nat.one_mul], hbusy, ?shows, ?active⟩
  case shows =>
    have hshows := hbefore.append hword
    rwa [hend, hops, Nat.add_zero, ← msbFirst, msbFirst_succ_word _ hj] at hshows
  case active =>
    rw [← hend']
    exact hactive.append (Nat.add_assoc t 1 _ ▸ hactiveWord)

/-- Every word of a normal transfer is reached: the first by the start, and the next by BUSYHIGH_NEXT
(rules R82, R91). -/
theorem normalWord (hsel : Selects (r t) (i t) .startNormal) {j : Nat} (hj : j < p.C) :
    NormalWord r i t a b j := by
  induction j with
  | zero =>
    obtain ⟨hfirst, hstart⟩ := startNormal_cycle hrun (hno.first (by omega)) hsel
    refine normalWord_of_first hrun hno hdev hj (ops := [.startNormal]) ?_ ?_ (by simp [normalOps]) ?_
    · simpa [wordStart, initSeen_one] using hfirst
    · simpa [wordStart, msbFirst] using hstart
    · exact fun k hk => absurd hk (Nat.not_lt_zero k)
  | succ j ih =>
    have hword := ih (by omega)
    have hlen : wordStart p a b (j + 1) ≤ wordStart p a b p.C := wordStart_mono p a b (by omega)
    obtain ⟨words, hwords⟩ : ∃ words, p.C - (j + 1) = words + 1 := ⟨p.C - (j + 1) - 1, by omega⟩
    obtain ⟨hfirst, hnext⟩ :=
      next_cycle hrun (hno _ (by omega)) (hwords ▸ hword.gap) (by omega) hword.busy
    refine normalWord_of_first hrun hno hdev hj (ops := normalOps p.W a b j ++ [.busyhighNext]) ?_ ?_
      (by simp [normalOps_succ]) hword.active
    · rw [Nat.add_comm 1, initSeen_succ, ← Bool.or_assoc, ← Nat.add_assoc, hfirst, hwords]
    · rw [Nat.add_comm 1]
      simpa using hword.shows.append hnext

/-- A normal transfer: how it ends, that it goes on until then, and what it shows. -/
theorem normalTransfer_runs (hsel : Selects (r t) (i t) .startNormal) :
    r (t + 1 + wordStart p a b p.C) =
        transferEndRegs 0 ((r t).initLatched || initSeen i t (1 + wordStart p a b p.C))
          ((r t).initialized || ((r t).initLatched || initSeen i t (1 + wordStart p a b p.C))) ∧
      Active r (t + 1) (wordStart p a b p.C) (r t).initialized ∧
      Shows r i t (1 + wordStart p a b p.C)
        (normalOps p.W a b (p.C - 1) ++
          [if initPending (r (t + wordStart p a b p.C)) (i (t + wordStart p a b p.C)) then
            .busyhighDoneInit else .busyhighDone])
        (msbFirst (i t).data p.L) p.C := by
  have hC : p.C - 1 + 1 = p.C := Nat.sub_add_cancel p.C_pos
  obtain ⟨-, hgap, hbusy, hshows, hactive⟩ :=
    normalWord hrun hno hdev hsel (j := p.C - 1) (by omega)
  rw [hC] at hgap hbusy hshows hactive
  rw [Nat.sub_self, BitVec.shiftLeft_eq_zero le_rfl] at hgap
  obtain ⟨hend, hlast⟩ := last_cycle hrun (hno _ (by omega)) hgap hbusy
  rw [Bool.or_assoc, ← initSeen_succ] at hend
  refine ⟨?_, hactive, ?_⟩
  · rw [Nat.add_assoc, Nat.add_comm 1]
    exact hend
  · rw [Nat.add_comm 1]
    simpa using hshows.append hlast

end

end Sys2Proof.Machine

namespace Sys2Proof

open Machine

/-- Settles O55. -/
theorem normalTransferTakesItsCycles : Obligations.NormalTransferTakesItsCycles := by
  intro p r i t a b hrun hno hst hdiv hstart hip hdev
  have hsel : Selects (r t) (i t) .startNormal := ⟨hdiv, hst, hstart, hip⟩
  obtain ⟨hend, hactive, -⟩ := normalTransfer_runs hrun hno hdev hsel
  refine ⟨fun j hj => ?_, fun k hk => (hactive k hk).1, hend⟩
  rw [Nat.add_assoc]
  exact (normalWord hrun hno hdev hsel hj).first

/-- Settles O56. -/
theorem normalTransferSendsTheDataMsbFirst : Obligations.NormalTransferSendsTheDataMsbFirst := by
  intro p r i t a b hrun hno hst hdiv hstart hip hdev
  obtain ⟨-, -, hshows⟩ := normalTransfer_runs hrun hno hdev ⟨hdiv, hst, hstart, hip⟩
  exact ⟨hshows.bits_eq, hshows.frames_eq⟩

/-- Settles O59. -/
theorem transferRunsItsOperations : Obligations.TransferRunsItsOperations := by
  intro p r i t a b hrun hst hdiv
  refine ⟨fun hip hstart hno hdev hquiet => ?normal, fun hip hno hdev => ?init⟩
  case normal =>
    obtain ⟨-, -, hshows⟩ := normalTransfer_runs hrun hno hdev ⟨hdiv, hst, hstart, hip⟩
    obtain ⟨c, hc⟩ := Nat.exists_eq_add_of_le' p.C_pos
    rw [hshows.ops_eq, hquiet, hc, Nat.add_sub_cancel, normalXfer_eq]
    rfl
  case init =>
    have hlen : wordStart p a b 1 = 2 * p.W * p.N + a 0 + b 0 := Nat.zero_add _
    rw [hlen] at hno ⊢
    obtain ⟨-, -, -, hshows⟩ := initTransfer_runs hrun hno hst hdiv hip hdev
    exact hshows.ops_eq

end Sys2Proof
end

section
/-! PROOFS. Every transfer ends (rule R171, decision D22): a timed state is left after its count, a polled
state after the answer, a word after its bits and a transfer after its words, from any registers. -/

namespace Sys2Proof.Machine

variable {p : Params} {r : Nat → Regs p} {i : Nat → Inputs p} {t : Nat} (hrun : IsRun r i)
  (hno : ∀ t, (i t).rst = false)
include hrun hno

/-- Every cycle is followed by a tick cycle that differs in the divider and the latch only (rule R71). -/
theorem reaches_tick (t : Nat) :
    ∃ u l, t ≤ u ∧ r u = { r t with divCnt := 0, initLatched := l } := by
  have hzero := countdown hrun rfl (le_refl (r t).divCnt.toNat) fun k _ => hno (t + k)
  rw [Nat.sub_self] at hzero
  exact ⟨_, _, Nat.le_add_right t _, hzero⟩

/-- The operation that the next tick selects is executed. -/
theorem reaches_next {op : Instr} (hsel : ∀ j l, Selects { r t with divCnt := 0, initLatched := l } j op) :
    ∃ u j l, t ≤ u ∧ r u = cycleRegs op { r t with divCnt := 0, initLatched := l } j := by
  obtain ⟨u, l, hu, htick⟩ := reaches_tick hrun hno t
  refine ⟨u + 1, i u, l, by omega, ?_⟩
  rw [hrun.next, htick]
  exact nextRegs_of_selects (hno u) (hsel _ _)

/-- A visit to DELAY ends in BUSY_LOW with one word less to come (rule R87). -/
theorem delay_reaches_busyLow (hst : (r t).st = .delay) :
    ∃ u, t ≤ u ∧ (r u).st = .busyLow ∧ (r u).wordCnt = (r t).wordCnt - 1 := by
  obtain ⟨u, j, l, hu, hnext⟩ := reaches_next hrun hno (op := .delayEnd) fun _ _ => ⟨rfl, hst⟩
  exact ⟨u, hu, by rw [hnext]; rfl, by rw [hnext]; rfl⟩

/-- A visit to HOLD ends in SETUP with one bit less to come (rule R86). -/
theorem hold_reaches_setup (hst : (r t).st = .hold) :
    ∃ u, t ≤ u ∧ (r u).st = .setup ∧ (r u).bitCnt = (r t).bitCnt - 1 ∧ (r u).wordCnt = (r t).wordCnt := by
  obtain ⟨u, j, l, hu, hnext⟩ := reaches_next hrun hno (op := .holdShift) fun _ _ => ⟨rfl, hst⟩
  exact ⟨u, hu, by rw [hnext]; rfl, by rw [hnext]; rfl, by rw [hnext]; rfl⟩

/-- A word ends in BUSY_LOW with one word less to come, from however many bits. -/
theorem setup_reaches_busyLow (hst : (r t).st = .setup) :
    ∃ u, t ≤ u ∧ (r u).st = .busyLow ∧ (r u).wordCnt = (r t).wordCnt - 1 := by
  induction hbits : (r t).bitCnt.toNat generalizing t with
  | zero =>
    have hzero : (r t).bitCnt = 0 := BitVec.eq_of_toNat_eq (by simpa using hbits)
    obtain ⟨u, j, l, hu, hnext⟩ := reaches_next hrun hno (op := .setupLast) fun _ _ => ⟨rfl, hst, hzero⟩
    obtain ⟨v, hv, hlow, hwords⟩ := delay_reaches_busyLow hrun hno (t := u) (by rw [hnext]; rfl)
    exact ⟨v, hu.trans hv, hlow, by rw [hwords, hnext]; rfl⟩
  | succ n ih =>
    have hpos : (r t).bitCnt ≠ 0 := fun hzero => by simp [hzero] at hbits
    obtain ⟨u, j, l, hu, hnext⟩ := reaches_next hrun hno (op := .setupNext) fun _ _ => ⟨rfl, hst, hpos⟩
    obtain ⟨v, hv, hsetup, hbit, hword⟩ := hold_reaches_setup hrun hno (t := u) (by rw [hnext]; rfl)
    have hcount : (r v).bitCnt.toNat = n := by
      rw [hbit, hnext]
      exact (toNat_sub_one _ (one_le_toNat hpos)).trans (by omega)
    obtain ⟨w, hw, hlow, hwords⟩ := ih hsetup hcount
    exact ⟨w, (hu.trans hv).trans hw, hlow, by rw [hwords, hword, hnext]; rfl⟩

/-- A wait ends if the level it waits for comes (rules R88, R90). -/
theorem stall_ends (n : Nat) (hend : ¬ Stalled (r t) (i (t + n))) :
    ∃ u l, t ≤ u ∧ r u = { r t with initLatched := l } ∧ ¬ Stalled (r t) (i u) := by
  induction n generalizing t with
  | zero => exact ⟨t, _, le_rfl, rfl, hend⟩
  | succ n ih =>
    by_cases hstalled : Stalled (r t) (i t)
    case neg => exact ⟨t, _, le_rfl, rfl, hstalled⟩
    have hnext : r (t + 1) = { r t with initLatched := (r t).initLatched || (i t).init } := by
      rw [hrun.next, hstalled.nextRegs_eq (hno t)]
    obtain ⟨u, l, hu, hregs, hlevel⟩ := ih (t := t + 1) (by
      rw [hnext, Nat.add_right_comm]
      exact hend)
    rw [hnext] at hregs hlevel
    exact ⟨u, l, by omega, hregs, hlevel⟩

variable (hlive : BusyLive r i)
include hlive

/-- A polled state comes to a tick cycle with the level it waits for (rules R88, R90, R171). -/
theorem poll_ends (hst : (r t).st = .busyLow ∨ (r t).st = .busyHigh) :
    ∃ u l, t ≤ u ∧ r u = { r t with divCnt := 0, initLatched := l } ∧
      (i u).busy = decide ((r t).st = .busyHigh) := by
  obtain ⟨u, l, hu, htick⟩ := reaches_tick hrun hno t
  have hst' : (r u).st = (r t).st := by rw [htick]
  have hcomes : ∃ n, ¬ Stalled (r u) (i (u + n)) := by
    obtain hlow | hhigh := hst
    · obtain ⟨n, hbusy, -⟩ := hlive.1 u (hst'.trans hlow)
      exact ⟨n, by simp [Stalled, hst', hlow, hbusy]⟩
    · obtain ⟨n, hbusy, -⟩ := hlive.2 u (hst'.trans hhigh)
      exact ⟨n, by simp [Stalled, hst', hhigh, hbusy]⟩
  obtain ⟨n, hn⟩ := hcomes
  obtain ⟨v, l', hv, hregs, hlevel⟩ := stall_ends hrun hno n hn
  refine ⟨v, l', hu.trans hv, by rw [hregs, htick], ?_⟩
  obtain hpolled | hpolled := hst <;> simpa [Stalled, htick, hpolled] using hlevel

/-- A visit to BUSY_LOW ends in BUSY_HIGH (rule R89). -/
theorem busyLow_reaches_busyHigh (hst : (r t).st = .busyLow) :
    ∃ u, t ≤ u ∧ (r u).st = .busyHigh ∧ (r u).wordCnt = (r t).wordCnt := by
  obtain ⟨u, l, hu, hregs, hbusy⟩ := poll_ends hrun hno hlive (.inl hst)
  have hack : (i u).busy = false := by rw [hbusy, hst]; rfl
  have hsel : Selects (r u) (i u) .busylowAck := hregs ▸ ⟨rfl, hst, hack⟩
  refine ⟨u + 1, by omega, ?_⟩
  rw [hrun.next, nextRegs_of_selects (hno u) hsel, hregs]
  exact ⟨rfl, rfl⟩

/-- A visit to BUSY_HIGH ends in IDLE, or in SETUP if words are left (rules R91 to R93). -/
theorem busyHigh_reaches (hst : (r t).st = .busyHigh) :
    ∃ u, t ≤ u ∧ ((r u).st = .idle ∨
      (r t).wordCnt ≠ 0 ∧ (r u).st = .setup ∧ (r u).wordCnt = (r t).wordCnt) := by
  obtain ⟨u, l, hu, hregs, hbusy⟩ := poll_ends hrun hno hlive (.inr hst)
  have hready : (i u).busy = true := by rw [hbusy, hst]; rfl
  have hdiv : (r u).divCnt = 0 := by rw [hregs]
  have hhigh : (r u).st = .busyHigh := by rw [hregs, ← hst]
  have hkept : (r u).wordCnt = (r t).wordCnt := by rw [hregs]
  refine ⟨u + 1, by omega, ?_⟩
  rw [hrun.next, ← hkept]
  by_cases hwords : (r u).wordCnt = 0
  case neg =>
    rw [nextRegs_of_selects (op := .busyhighNext) (hno u) ⟨hdiv, hhigh, hready, hwords⟩]
    exact .inr ⟨hwords, rfl, rfl⟩
  case pos =>
    left
    cases hip : initPending (r u) (i u) with
    | false =>
      rw [nextRegs_of_selects (op := .busyhighDone) (hno u) ⟨hdiv, hhigh, hready, hwords, hip⟩]
      rfl
    | true =>
      rw [nextRegs_of_selects (op := .busyhighDoneInit) (hno u) ⟨hdiv, hhigh, hready, hwords, hip⟩]
      rfl

/-- From BUSY_HIGH the core gets to IDLE, by however many words (rule R87). -/
theorem busyHigh_reaches_idle (hst : (r t).st = .busyHigh) : ∃ u, t ≤ u ∧ (r u).st = .idle := by
  induction hwords : (r t).wordCnt.toNat generalizing t with
  | zero =>
    have hzero : (r t).wordCnt = 0 := BitVec.eq_of_toNat_eq (by simpa using hwords)
    obtain ⟨u, hu, hidle | ⟨hpos, -⟩⟩ := busyHigh_reaches hrun hno hlive hst
    · exact ⟨u, hu, hidle⟩
    · exact absurd hzero hpos
  | succ n ih =>
    obtain ⟨u, hu, hidle | ⟨hpos, hsetup, hword⟩⟩ := busyHigh_reaches hrun hno hlive hst
    · exact ⟨u, hu, hidle⟩
    obtain ⟨v, hv, hlow, hcount⟩ := setup_reaches_busyLow hrun hno hsetup
    obtain ⟨w, hw, hhigh, hkept⟩ := busyLow_reaches_busyHigh hrun hno hlive hlow
    have hless : (r w).wordCnt.toNat = n := by
      rw [hkept, hcount, hword, toNat_sub_one _ (one_le_toNat hpos)]
      omega
    obtain ⟨z, hz, hidle⟩ := ih hhigh hless
    exact ⟨z, by omega, hidle⟩

/-- From every state the core gets to IDLE. -/
theorem reaches_idle (t : Nat) : ∃ u, t ≤ u ∧ (r u).st = .idle := by
  have low {t : Nat} (hst : (r t).st = .busyLow) : ∃ u, t ≤ u ∧ (r u).st = .idle := by
    obtain ⟨u, hu, hhigh, -⟩ := busyLow_reaches_busyHigh hrun hno hlive hst
    obtain ⟨v, hv, hidle⟩ := busyHigh_reaches_idle hrun hno hlive hhigh
    exact ⟨v, hu.trans hv, hidle⟩
  have setup {t : Nat} (hst : (r t).st = .setup) : ∃ u, t ≤ u ∧ (r u).st = .idle := by
    obtain ⟨u, hu, hlow, -⟩ := setup_reaches_busyLow hrun hno hst
    obtain ⟨v, hv, hidle⟩ := low hlow
    exact ⟨v, hu.trans hv, hidle⟩
  cases hst : (r t).st with
  | idle => exact ⟨t, le_rfl, hst⟩
  | setup => exact setup hst
  | hold =>
    obtain ⟨u, hu, hsetup, -⟩ := hold_reaches_setup hrun hno hst
    obtain ⟨v, hv, hidle⟩ := setup hsetup
    exact ⟨v, hu.trans hv, hidle⟩
  | delay =>
    obtain ⟨u, hu, hlow, -⟩ := delay_reaches_busyLow hrun hno hst
    obtain ⟨v, hv, hidle⟩ := low hlow
    exact ⟨v, hu.trans hv, hidle⟩
  | busyLow => exact low hst
  | busyHigh => exact busyHigh_reaches_idle hrun hno hlive hst

end Sys2Proof.Machine

namespace Sys2Proof

open Machine

/-- Settles O60. -/
theorem transfersEndIfTheDeviceAnswers : Obligations.TransfersEndIfTheDeviceAnswers := by
  intro p r i hrun hno hlive t
  obtain ⟨u, hu, hidle⟩ := reaches_idle hrun hno hlive t
  exact ⟨u - t, by rwa [Nat.add_sub_cancel' hu]⟩

end Sys2Proof
end
